-- ==== Sys2Proof/Word.lean ====
section
/-! DEFINITION. The word types of the carriage link and the index types of the part's tables. -/

namespace Sys2Proof

/-- One byte of a frame (R2). -/
abbrev Byte := BitVec 8

/-- A coordinate: 24-bit two's complement in 0.1 mm (00_scope.md, Numbers; R5). -/
abbrev Coord := BitVec 24

/-- A speed in mm/s, 16-bit unsigned (R5). -/
abbrev Speed := BitVec 16

/-- An authority level or a clearance, 0..3; 0 is the highest authority (R3). -/
abbrev Level := Fin 4

/-- A source of controller frames, 0..7 (R3). -/
abbrev Source := Fin 8

/-- A carriage number, 0..31 (R3). -/
abbrev Carriage := Fin 32

/-- A zone, 0..63, or the floor zone 64 (R37, R40). -/
abbrev Zone := Fin 65

/-- A place in the zone table, 0..63 (R37). -/
abbrev ZoneIndex := Fin 64

/-- A point of the floor plane (R26). -/
structure Point where
  x : Coord
  y : Coord
deriving DecidableEq, Repr

end Sys2Proof
end

