-- ==== Sys2Proof/Syntax.lean ====
section
/-! DEFINITION. The commands of the block: one constructor for each row of spec/opcode_table.json, with the row's operands. -/

namespace Sys2Proof

/-- The two link ports (R1): `u` faces the controllers, `d` the drive segment. -/
inductive Port where
  | u
  | d
deriving DecidableEq, Repr

/-- The header fields of a frame other than its kind and length (R2, R3). -/
structure Header where
  source : Source
  carriage : Carriage
  level : Level
  sequence : Byte
deriving DecidableEq, Repr

/-- A command: one step of the part (spec/opcode_table.json, 95_what_each_step_holds.md).
A command for a frame is the completion of that frame's reception on its port; a management request is a
MGMT_REQ frame with that request's code, its request_id `rid` and its operand bytes `ops` (R162).
The rows that end a reception without a typed frame carry the bytes received (log 2, log 3). -/
inductive Instr where
  /-- MOVE_ABS (21h) arrives on port U (R5, R84). -/
  | moveAbs (h : Header) (x y : Coord) (speed : Speed) (via : Byte)
  /-- MOVE_REL (22h) arrives on port U (R5, R84). -/
  | moveRel (h : Header) (dx dy : Coord) (speed : Speed) (via : Byte)
  /-- SETUP (23h) arrives on port U (R28). -/
  | setup (h : Header) (enables scale turn : Byte) (offset : Point) (tag : Byte)
  /-- STOP_CARRIAGE (24h) arrives on port U (R101). -/
  | stopCarriage (h : Header)
  /-- TRANSIT (2Fh) arrives on a port (R19, R102). -/
  | transit (p : Port) (h : Header) (payload : List Byte)
  /-- DONE (51h) arrives on port D (R70). -/
  | done (h : Header) (at_ : Point) (stopped : Byte)
  /-- CONTACT (52h) arrives on port D (R75). -/
  | contact (h : Header) (at_ : Point)
  /-- A MGMT_REQ (30h) arrives, given by its request code (R163). -/
  | mgmtReq (h : Header) (request rid : Byte) (ops : List Byte)
  /-- A frame completes reception and fails the receive checks (R7). -/
  | receiveCheckFail (p : Port) (bytes : List Byte)
  /-- A frame completes reception and finds a queue place taken (R8). -/
  | overrun (p : Port) (bytes : List Byte)
  /-- A start symbol in RECEIVING, then the bytes after it (R7). -/
  | frameAborted (p : Port) (run : List Byte)
  /-- A frame completes reception while a soft reset is pending (R9). -/
  | softResetPendingDiscard (p : Port) (bytes : List Byte)
  /-- A PAUSE symbol is received on a port (R11). -/
  | pauseReceived (p : Port)
  /-- A GO symbol is received on a port (R11). -/
  | goReceived (p : Port)
  /-- The port U transmitter begins a frame (R16). -/
  | uTxStart
  /-- The port U transmitter completes a frame (R16). -/
  | uTxComplete
  /-- The port D transmitter begins a frame (R17). -/
  | dTxStart
  /-- The port D transmitter completes a frame (R17). -/
  | dTxComplete
  /-- The 1 ms base tick, with the raw level of STOPn at it: `true` is low, asserted (R125, R149). -/
  | baseTick (stopnLow : Bool)
  /-- The 100 ms tick (R125). -/
  | tick100ms
  /-- The second update (R126, R128). -/
  | secondUpdate
  /-- The minute update (R126, R134). -/
  | minuteUpdate
  /-- Cycle timer `n` counts from 1 to 0 (R139, R140). -/
  | cycleTimerExpiry (n : Fin 4)
  /-- The move deadline of carriage `c` expires (R69). -/
  | moveDeadlineExpiry (c : Carriage)
  /-- The hold deadline of pool entry `e` runs out (R113). -/
  | holdExpiry (e : Fin 16)
  /-- Pulse count `p` (0 WINDOW, 1..4 CYCLE0..CYCLE3) reaches 0 (R156). -/
  | alertPulseEnd (p : Fin 5)
  /-- The debounced STOPn level becomes ASSERTED (R149). -/
  | stopnAssertion
  /-- The debounced STOPn level becomes RELEASED (R149). -/
  | stopnRelease
  /-- The supply rises (R159). -/
  | powerOnReset
  /-- RSTn is asserted (R159). -/
  | lineReset
  /-- RSTn is released (R159). -/
  | lineResetRelease
  /-- READ_STATUS, 01h (R167). -/
  | readStatus (h : Header) (rid : Byte) (ops : List Byte)
  /-- CLEAR_FLAGS, 02h (R154). -/
  | clearFlags (h : Header) (rid : Byte) (ops : List Byte)
  /-- SET_ALERT, 03h (R157). -/
  | setAlert (h : Header) (rid : Byte) (ops : List Byte)
  /-- READ_ALERT, 04h (R158). -/
  | readAlert (h : Header) (rid : Byte) (ops : List Byte)
  /-- READ_CAUSE, 05h (R161). -/
  | readCause (h : Header) (rid : Byte) (ops : List Byte)
  /-- START, 10h (R145). -/
  | startReq (h : Header) (rid : Byte) (ops : List Byte)
  /-- STOP, 11h (R146). -/
  | stopReq (h : Header) (rid : Byte) (ops : List Byte)
  /-- RESUME, 12h (R147). -/
  | resumeReq (h : Header) (rid : Byte) (ops : List Byte)
  /-- END, 13h (R148). -/
  | endReq (h : Header) (rid : Byte) (ops : List Byte)
  /-- SET_FLOOR, 20h (R24). -/
  | setFloor (h : Header) (rid : Byte) (ops : List Byte)
  /-- READ_FLOOR, 21h (R25). -/
  | readFloor (h : Header) (rid : Byte) (ops : List Byte)
  /-- WRITE_ZONE, 22h (R47). -/
  | writeZone (h : Header) (rid : Byte) (ops : List Byte)
  /-- READ_ZONE, 23h (R52). -/
  | readZone (h : Header) (rid : Byte) (ops : List Byte)
  /-- WRITE_SOURCE, 28h (R82). -/
  | writeSource (h : Header) (rid : Byte) (ops : List Byte)
  /-- READ_SOURCE, 29h (R83). -/
  | readSource (h : Header) (rid : Byte) (ops : List Byte)
  /-- ENROLL, 30h (R58). -/
  | enroll (h : Header) (rid : Byte) (ops : List Byte)
  /-- WITHDRAW_CARRIAGE, 31h (R60). -/
  | withdrawCarriage (h : Header) (rid : Byte) (ops : List Byte)
  /-- RELEASE_CARRIAGE, 32h (R62). -/
  | releaseCarriage (h : Header) (rid : Byte) (ops : List Byte)
  /-- READ_CARRIAGE, 33h (R63). -/
  | readCarriage (h : Header) (rid : Byte) (ops : List Byte)
  /-- FIND_TAG, 34h (R65). -/
  | findTag (h : Header) (rid : Byte) (ops : List Byte)
  /-- READ_WAITLIST, 38h (R122). -/
  | readWaitlist (h : Header) (rid : Byte) (ops : List Byte)
  /-- READ_OCCUPANCY, 39h (R123). -/
  | readOccupancy (h : Header) (rid : Byte) (ops : List Byte)
  /-- SET_TIME, 40h (R130). -/
  | setTime (h : Header) (rid : Byte) (ops : List Byte)
  /-- READ_TIME, 41h (R131). -/
  | readTime (h : Header) (rid : Byte) (ops : List Byte)
  /-- WRITE_WINDOW, 42h (R137). -/
  | writeWindow (h : Header) (rid : Byte) (ops : List Byte)
  /-- READ_WINDOW, 43h (R138). -/
  | readWindow (h : Header) (rid : Byte) (ops : List Byte)
  /-- WRITE_TIMER, 44h (R141). -/
  | writeTimer (h : Header) (rid : Byte) (ops : List Byte)
  /-- READ_TIMER, 45h (R142). -/
  | readTimer (h : Header) (rid : Byte) (ops : List Byte)
  /-- LOCK, 50h (R170). -/
  | lockReq (h : Header) (rid : Byte) (ops : List Byte)
  /-- RESET, 51h (R171). -/
  | resetReq (h : Header) (rid : Byte) (ops : List Byte)
  /-- A start symbol in IDLE, then the bytes after it (R7). -/
  | startSymbol (p : Port) (run : List Byte)
deriving DecidableEq, Repr

end Sys2Proof
end

