-- ==== Sys2Proof/Decode.lean ====
section
/-! DEFINITION. The words of spec/opcode_table.json: no row of the table gives bits, so no word spells a command (log 20).
The frame format of R2 to R5 is read and written in Machine/Frames.lean. -/

namespace Sys2Proof

/-- The command an `nbits`-bit word spells by the table's bits: none, since the table gives no row any. -/
def decodeTableWord (_nbits _w : Nat) : Option Instr := none

end Sys2Proof
end

