-- ==== Sys2Proof/Config.lean ====
section
/-! DEFINITION. What the part fixes by its size, and the one free value the manual leaves open. -/

namespace Sys2Proof.Config

/-- Places of DQ and of UQ (R12). -/
def queuePlaces : Nat := 16

/-- Places internal insertions leave free (R14). -/
def reserve : Nat := 3

/-- The most bytes a receiver's buffer holds (R7). -/
def bufferBytes : Nat := 46

/-- The order in which the effects of one tick are taken where the manual gives none (R113, R125, R139, R140):
the draws for the `n`-th tick, by number. A free value: nothing constrains it (log 7). -/
opaque tickChoice (n draw : Nat) : Nat

end Sys2Proof.Config
end

