-- ==== Sys2Proof/Machine/State.lean ====
section
/-! DEFINITION. The state of the part, block by block as 00_scope.md lists them, and its value after a power-on reset. -/

namespace Sys2Proof.Machine

/-! ### The link unit (01_the_carriage_link.md) -/

/-- A receiver (R7): IDLE or RECEIVING, the bytes of the frame being received, and the overlong mark. -/
structure Receiver where
  receiving : Bool
  buffer : List Byte
  overlong : Bool
deriving DecidableEq, Repr

/-- A receiver in IDLE (R22). -/
def Receiver.idle : Receiver := { receiving := false, buffer := [], overlong := false }

/-- The verdicts of R100. -/
inductive Verdict where
  | clipped
  | held
  | released
  | refused
  | expired
  | withdrawn
  | cancelled
deriving DecidableEq, Repr

/-- The reasons of R100. -/
inductive Reason where
  | none
  | source
  | carriage
  | standby
  | halted
  | busy
  | faulted
  | badValue
  | edge
  | closed
  | level
  | portal
  | depth
  | speed
  | full
  | noRoom
  | stop
  | end_
deriving DecidableEq, Repr

/-- The status codes of R165. -/
inductive Status where
  | ok
  | denied
  | unknown
  | locked
  | state
  | badIndex
  | badValue
  | inUse
  | noRoom
  | busy
deriving DecidableEq, Repr

/-- A frame in DQ (R12, R5). HALT_ALL never stands in DQ (R17). -/
inductive DFrame where
  | driveMove (h : Header) (target : Point) (speed : Speed)
  | driveStop (h : Header)
  | heartbeat (governorState haltCauseAny : Byte)
  | transit (h : Header) (payload : List Byte)
deriving DecidableEq, Repr

/-- A frame in UQ (R12, R5). -/
inductive UFrame where
  | verdict (h : Header) (verdict : Verdict) (reason : Reason) (adjusted : Bool) (speed : Speed)
  | mgmtRsp (h : Header) (request rid : Byte) (status : Status) (data : List Byte)
  | doneUp (h : Header) (at_ : Point) (stopped tag zone : Byte)
  | contactUp (h : Header) (at_ : Point) (tag zone : Byte)
  | transit (h : Header) (payload : List Byte)
deriving DecidableEq, Repr

/-- A place of UQ: the frame, and whether it is the response that answers the RESET request (R171). -/
structure UEntry where
  frame : UFrame
  answersReset : Bool
deriving DecidableEq, Repr

/-- The port D transmitter (R17): IDLE, sending the HALT_ALL, or sending the head of DQ. -/
inductive TxD where
  | idle
  | haltAll
  | frame
deriving DecidableEq, Repr

/-- The link unit. `pausedU` and `pausedD` are the receivers' pause states (R10); `stoppedU` and `stoppedD` the
transmitters' peer permits (R11), set when STOPPED; `sendingU` says the port U transmitter sends the head of UQ (R16). -/
structure Link where
  rxU : Receiver
  rxD : Receiver
  pausedU : Bool
  pausedD : Bool
  stoppedU : Bool
  stoppedD : Bool
  sendingU : Bool
  txD : TxD
  dq : List DFrame
  uq : List UEntry
  haltSlot : Bool
deriving DecidableEq, Repr

/-- The link unit after any reset (R22). -/
def Link.reset : Link :=
  { rxU := .idle, rxD := .idle, pausedU := false, pausedD := false, stoppedU := false, stoppedD := false,
    sendingU := false, txD := .idle, dq := [], uq := [], haltSlot := false }

/-! ### The source table (05_admission_of_moves.md) -/

/-- A record of the source table (R80). -/
structure SourceRecord where
  enabled : Bool
  ceiling : Level
  mayManage : Bool
deriving DecidableEq, Repr

/-- The source table after a power-on or line reset (R80). -/
def sourcesReset : Vector SourceRecord 8 :=
  (Vector.replicate 8 { enabled := false, ceiling := 3, mayManage := false }).set 0
    { enabled := true, ceiling := 0, mayManage := true }

/-! ### The zone table and the floor (02, 03) -/

/-- A box of floor points, edges included (R23, R37). -/
structure Box where
  x0 : Coord
  y0 : Coord
  x1 : Coord
  y1 : Coord
deriving DecidableEq, Repr

/-- Speed policy of a place (R38). -/
inductive SpeedPolicy where
  | clip
  | refuse
deriving DecidableEq, Repr

/-- The fields of a present place, OPEN or GUARDED (R37). -/
structure Place where
  guarded : Bool
  box : Box
  guardLevel : Level
  capacity : Nat
  speedLimit : Speed
  policy : SpeedPolicy
  holdLimit : Nat
  window : Option (Fin 16)
deriving DecidableEq, Repr

/-- A zone descriptor (R37). -/
inductive Descriptor where
  | void
  | place (p : Place)
  | portal (fromZone : Zone) (toZone : ZoneIndex) (useLevel : Level)
deriving DecidableEq, Repr

/-- The zone table: descriptors 0..63 (R37) and the floor state (R23). -/
structure ZoneTable where
  descriptors : Vector Descriptor 64
  floorBox : Box
  floorValid : Bool
deriving DecidableEq, Repr

/-- The zone table after a power-on or line reset (R23, R53). -/
def ZoneTable.reset : ZoneTable :=
  { descriptors := Vector.replicate 64 .void, floorBox := { x0 := 0, y0 := 0, x1 := 0, y1 := 0 }, floorValid := false }

/-! ### The carriage table (04_carriage_contexts.md) -/

/-- The state of a carriage (R54). -/
inductive CarriageState where
  | unenrolled
  | parked
  | moving
  | held
  | faulted
deriving DecidableEq, Repr

/-- A record of the portal stack (R56). -/
structure StackRecord where
  saved : Level
  portal : ZoneIndex
deriving DecidableEq, Repr

/-- Why a carriage is FAULTED (R54). -/
inductive FaultCause where
  | timeout
  | stray
deriving DecidableEq, Repr

/-- An in-flight move record (R64, R66). `deadline` counts 100 ms ticks (R68). -/
structure InFlight where
  source : Source
  sequence : Byte
  level : Level
  target : Point
  targetZone : Zone
  originZone : Zone
  entry : Bool
  pops : Nat
  push : Option StackRecord
  deadline : Option Nat
  sent : Bool
deriving DecidableEq, Repr

/-- A carriage context (R54). The portal stack is held top record first. `scale` is 1..16 (R28). -/
structure Context where
  state : CarriageState
  position : Point
  zone : Zone
  clearance : Level
  stack : List StackRecord
  scale : Byte
  turn : Fin 4
  offset : Point
  tag : BitVec 7
  moveLimit : Nat
  inFlight : Option InFlight
  holdRef : Option (Fin 16)
  faultCause : Option FaultCause
  reported : Option Point
  verdictOwed : Bool
deriving DecidableEq, Repr

/-- A context that enters UNENROLLED (R55). -/
def Context.unenrolled : Context :=
  { state := .unenrolled, position := { x := 0, y := 0 }, zone := 0, clearance := 3, stack := [], scale := 1, turn := 0,
    offset := { x := 0, y := 0 }, tag := 0, moveLimit := 0, inFlight := none, holdRef := none, faultCause := none,
    reported := none, verdictOwed := false }

/-! ### The occupancy unit (06) -/

/-- A hold-pool entry in use (R107). Only the zones 0..63 have wait lists (R108). -/
structure HoldEntry where
  carriage : Carriage
  source : Source
  sequence : Byte
  level : Level
  adjusted : Bool
  target : Point
  zone : ZoneIndex
  speed : Speed
  clipped : Bool
  pops : Nat
  push : Option StackRecord
  remaining : Nat
deriving DecidableEq, Repr

/-- A record of the verdict backlog (R119). -/
structure BacklogRecord where
  carriage : Carriage
  source : Source
  sequence : Byte
  level : Level
  verdict : Verdict
  reason : Reason
  adjusted : Bool
  speed : Speed
deriving DecidableEq, Repr

/-- The occupancy unit (R104, R107, R108, R112, R119, R121). -/
structure Occupancy where
  claims : Vector Nat 65
  pool : Vector (Option HoldEntry) 16
  waits : Vector (List (Fin 16)) 64
  recheck : Vector Bool 64
  backlog : List BacklogRecord
  holdWarn : Bool
deriving DecidableEq, Repr

/-- The occupancy unit after any reset (R124). -/
def Occupancy.reset : Occupancy :=
  { claims := Vector.replicate 65 0, pool := Vector.replicate 16 none, waits := Vector.replicate 64 [],
    recheck := Vector.replicate 64 false, backlog := [], holdWarn := false }

/-! ### The time unit (07) -/

/-- The calendar, each field as the byte software reads (R127). -/
structure Calendar where
  seconds : Byte
  minutes : Byte
  hours : Byte
  weekday : Byte
  day : Byte
  month : Byte
  year : Byte
deriving DecidableEq, Repr

/-- A window pattern, five bytes (R133). -/
structure Pattern where
  minute : Byte
  hour : Byte
  month : Byte
  kind : Byte
  value : Byte
deriving DecidableEq, Repr

/-- The pattern of zero bytes that an entry not in use holds (R132). -/
def Pattern.zero : Pattern := { minute := 0, hour := 0, month := 0, kind := 0, value := 0 }

/-- A window entry (R132). -/
structure WindowEntry where
  inUse : Bool
  openPattern : Pattern
  closePattern : Pattern
  isOpen : Bool
deriving DecidableEq, Repr

/-- A window entry not in use (R132). -/
def WindowEntry.unused : WindowEntry :=
  { inUse := false, openPattern := .zero, closePattern := .zero, isOpen := false }

/-- The tick source of a cycle timer (R139). -/
inductive TimerSource where
  | ms1
  | ms10
  | s1
  | min1
deriving DecidableEq, Repr

/-- The action of a cycle timer (R139). -/
inductive TimerAction where
  | event
  | heartbeat
deriving DecidableEq, Repr

/-- A cycle timer (R139). -/
structure Timer where
  enabled : Bool
  source : TimerSource
  preset : BitVec 16
  action : TimerAction
  counter : BitVec 16
deriving DecidableEq, Repr

/-- A cycle timer after a power-on or line reset (R143). -/
def Timer.reset : Timer := { enabled := false, source := .ms1, preset := 1000, action := .event, counter := 0 }

/-- The time unit (R125 to R143). -/
structure TimeUnit where
  divider : Nat
  subSecond : Nat
  calendar : Calendar
  timeInvalid : Bool
  windows : Vector WindowEntry 16
  timers : Vector Timer 4
deriving DecidableEq, Repr

/-- The time unit after a power-on reset (R129, R143). -/
def TimeUnit.reset : TimeUnit :=
  { divider := 0, subSecond := 0,
    calendar := { seconds := 0x00, minutes := 0x00, hours := 0x00, weekday := 0x40, day := 0x01, month := 0x01, year := 0x00 },
    timeInvalid := true, windows := Vector.replicate 16 .unused, timers := Vector.replicate 4 .reset }

/-! ### Governor control (08, 09) -/

/-- The governor state (R144). -/
inductive GovernorState where
  | standby
  | governing
  | halted
deriving DecidableEq, Repr

/-- Governor control. `flags` and `alertEnables` are numbered as R153; `haltEnables` bit 0 EDGE_HALT, 1 CONTACT_HALT,
2 TIMEOUT_HALT, 3 STRAY_HALT (R157); `pulses` WINDOW, CYCLE0..CYCLE3 (R156); `stopn` is the debounced level, set when
ASSERTED (R149); `cause` bit 0 POWERON, 1 LINE, 2 SOFT (R160). The resets in force (R159): `powerOnHold` from a power-on to
the base tick that completes it, `lineHold` while RSTn is asserted; both may hold the part at once. -/
structure Governor where
  state : GovernorState
  flags : BitVec 12
  haltEnables : BitVec 4
  alertEnables : BitVec 12
  pulses : Vector Nat 5
  stopn : Bool
  stopnCount : Nat
  lock : Bool
  softPending : Bool
  cause : BitVec 3
  powerOnHold : Bool
  lineHold : Bool
deriving DecidableEq, Repr

/-- Governor control after a power-on reset that has completed (R159, R160). -/
def Governor.reset : Governor :=
  { state := .standby, flags := 0, haltEnables := 0xF, alertEnables := 0, pulses := Vector.replicate 5 0, stopn := false,
    stopnCount := 0, lock := false, softPending := false, cause := 1, powerOnHold := false, lineHold := false }

/-! ### The whole part -/

/-- What the part has sent on a port, whole (the model's record of outputs, log 15): a control symbol or a frame's bytes. -/
inductive Wire where
  | pause
  | go
  | frame (bytes : List Byte)
deriving DecidableEq, Repr

/-- No command stops the part: the spec names no such event, so this type has no constructor. -/
inductive Fault where
deriving DecidableEq, Repr

/-- Why the model has no meaning for a command. -/
inductive Refusal where
  /-- Raised by an arm of `exec` whose command has no meaning yet; safe. No arm raises it now. -/
  | notModelled (mnemonic : String)
deriving DecidableEq, Repr

end Sys2Proof.Machine

namespace Sys2Proof.Machine

/-- The state of the part, block by block, with the commands that wait. `wireU`, `wireD` and `freeCount` are the model's
own (log 15, log 7). -/
structure State where
  link : Link
  sources : Vector SourceRecord 8
  table : ZoneTable
  carriages : Vector Context 32
  occ : Occupancy
  time : TimeUnit
  gov : Governor
  wireU : List Wire
  wireD : List Wire
  freeCount : Nat
  pending : List Instr
deriving DecidableEq, Repr

/-- The part right after a completed power-on reset: the values R22, R23, R53, R55, R80, R124, R129, R143, R159 and R160
state. -/
def State.reset : State :=
  { link := .reset, sources := sourcesReset, table := .reset, carriages := Vector.replicate 32 .unenrolled, occ := .reset,
    time := .reset, gov := .reset, wireU := [], wireD := [], freeCount := 0, pending := [] }

end Sys2Proof.Machine
end

