-- ==== Sys2Proof/Machine/Flags.lean ====
section
/-! DEFINITION. The sticky flags, the alert and halt enables, the alert pulses and the ALERTn line (R151 to R158). -/

namespace Sys2Proof.Machine

/-- The twelve sticky flags (R153). -/
inductive Flag where
  | stop
  | edge
  | contact
  | timeout
  | stray
  | holdx
  | linkerr
  | window
  | cycle (n : Fin 4)
deriving DecidableEq, Repr

/-- The bit position of a flag (R153). -/
def Flag.bit : Flag → Nat
  | .stop => 0
  | .edge => 1
  | .contact => 2
  | .timeout => 3
  | .stray => 4
  | .holdx => 5
  | .linkerr => 6
  | .window => 7
  | .cycle n => 8 + n.val

/-- The pulse count of a pulse-type flag (R156); level-type flags have none. -/
def Flag.pulse : Flag → Option (Fin 5)
  | .window => some 0
  | .cycle n => some ⟨1 + n.val, by omega⟩
  | _ => none

/-- The five halt-cause flags, as a mask (R153). -/
def haltCauseMask : BitVec 12 := 0x01F

/-- The seven level-type flags, as a mask (R153). -/
def levelTypeMask : BitVec 12 := 0x07F

/-- Whether a flag is set. -/
def Governor.flag (g : Governor) (f : Flag) : Bool := g.flags.getLsbD f.bit

/-- Whether a flag's alert enable is set (R155). -/
def Governor.alertEnabled (g : Governor) (f : Flag) : Bool := g.alertEnables.getLsbD f.bit

/-- An event that sets a flag (R153); a pulse-type flag whose enable is set starts its pulse at 8 (R156). -/
def Governor.raise (f : Flag) (g : Governor) : Governor :=
  { g with
    flags := g.flags ||| (1#12 <<< f.bit)
    pulses := match f.pulse with
      | none => g.pulses
      | some p => if g.alertEnabled f then g.pulses.set p.val 8 else g.pulses }

/-- The flags a mask names are cleared (R154); nothing else changes. -/
def Governor.clearFlags (mask : BitVec 12) (g : Governor) : Governor := { g with flags := g.flags &&& ~~~mask }

/-- Some halt-cause flag is set (R140). -/
def Governor.haltCauseAny (g : Governor) : Bool := g.flags &&& haltCauseMask ≠ 0

/-- ALERTn is low: a level-type flag with its enable, or a running pulse (R155, R156). -/
def Governor.alertLow (g : Governor) : Bool :=
  (g.flags &&& g.alertEnables &&& levelTypeMask ≠ 0) || g.pulses.toList.any (0 < ·)

/-- The alert enable that governs a pulse count: bits 7 to 11 (R153, R156). -/
def Governor.pulseEnabled (g : Governor) (p : Fin 5) : Bool := g.alertEnables.getLsbD (7 + p.val)

/-- New enables (R157): a pulse whose alert enable is cleared ends; no pulse begins. -/
def Governor.writeEnables (alert : BitVec 12) (halt : BitVec 4) (g : Governor) : Governor :=
  { g with
    alertEnables := alert
    haltEnables := halt
    pulses := Vector.ofFn fun p => if alert.getLsbD (7 + p.val) then g.pulses[p] else 0 }

/-- A base tick takes one from every running pulse (R156). -/
def Governor.pulseTick (g : Governor) : Governor := { g with pulses := g.pulses.map (· - 1) }

/-- The running pulses as READ_ALERT reports them (R158). -/
def Governor.pulseBits (g : Governor) : Nat :=
  (List.finRange 5).foldl (fun n p => if 0 < g.pulses[p] then n + 2 ^ p.val else n) 0

/-- A flag is raised in the whole state. -/
def raise (f : Flag) (s : State) : State := { s with gov := s.gov.raise f }

/-- The governor state as a byte: 00h STANDBY, 01h GOVERNING, 02h HALTED (R5, R167). -/
def GovernorState.code : GovernorState → Byte
  | .standby => 0x00
  | .governing => 0x01
  | .halted => 0x02

end Sys2Proof.Machine
end

