-- ==== Sys2Proof/Machine/Bytes.lean ====
section
/-! DEFINITION. Byte order of multi-byte fields (R5) and the frame check (R4). -/

namespace Sys2Proof.Machine

/-- A number as one byte. -/
def byteOf (n : Nat) : Byte := BitVec.ofNat 8 n

/-- A mark as a byte: 01h for yes, 00h for no. -/
def byteOfBool (b : Bool) : Byte := if b then 0x01 else 0x00

/-- The `i`-th byte of a run; past its end 00h, which no caller that has checked the length reads. -/
def byteAt (bytes : List Byte) (i : Nat) : Byte := bytes.getD i 0

/-- A 16-bit number, high byte first (R5). -/
def wordBytes (w : BitVec 16) : List Byte := [w.extractLsb' 8 8, w.extractLsb' 0 8]

/-- The 16-bit number that stands at byte `i` (R5). -/
def wordAt (bytes : List Byte) (i : Nat) : BitVec 16 := byteAt bytes i ++ byteAt bytes (i + 1)

/-- A coordinate in three bytes, high byte first (R5). -/
def coordBytes (c : Coord) : List Byte := [c.extractLsb' 16 8, c.extractLsb' 8 8, c.extractLsb' 0 8]

/-- The coordinate that stands at byte `i` (R5). -/
def coordAt (bytes : List Byte) (i : Nat) : Coord := byteAt bytes i ++ byteAt bytes (i + 1) ++ byteAt bytes (i + 2)

/-- A point: x, then y. -/
def pointBytes (p : Point) : List Byte := coordBytes p.x ++ coordBytes p.y

/-- The point that stands at byte `i`: x, then y. -/
def pointAt (bytes : List Byte) (i : Nat) : Point := { x := coordAt bytes i, y := coordAt bytes (i + 3) }

/-- One bit of the check of R4: generator x^16 + x^12 + x^5 + 1, the register shifted towards its high end. -/
def crcBit (crc : BitVec 16) (bit : Bool) : BitVec 16 :=
  if (crc.msb ^^ bit) = true then (crc <<< 1) ^^^ 0x1021 else crc <<< 1

/-- One byte of the check, most significant bit first (R4). -/
def crcByte (crc : BitVec 16) (b : Byte) : BitVec 16 :=
  [7, 6, 5, 4, 3, 2, 1, 0].foldl (fun c i => crcBit c (b.getLsbD i)) crc

/-- The check over a run of bytes: initial value FFFFh, remainder not inverted (R4, log 5). -/
def crc16 (bytes : List Byte) : BitVec 16 := bytes.foldl crcByte 0xFFFF

end Sys2Proof.Machine
end

