-- ==== Sys2Proof/Machine/Frames.lean ====
section
/-! DEFINITION. The frame format (R2, R5, R6): how each kind of frame is laid out in bytes, and how a received run of bytes
is read as a frame (R7). -/

namespace Sys2Proof.Machine

/-- Header byte 1: source in bits 7–5, carriage in bits 4–0 (R2). -/
def headerByte1 (h : Header) : Byte := byteOf (h.source.val * 32 + h.carriage.val)

/-- Header byte 2: level in bits 7–6, length in bits 5–0 (R2). -/
def headerByte2 (h : Header) (length : Nat) : Byte := byteOf (h.level.val * 64 + length)

/-- A frame before its check: the four header bytes and the payload (R2). -/
def frameBody (kind : Byte) (h : Header) (payload : List Byte) : List Byte :=
  kind :: headerByte1 h :: headerByte2 h payload.length :: h.sequence :: payload

/-- A whole frame: body and check, the check's high byte first (R2, R4). -/
def frameBytes (kind : Byte) (h : Header) (payload : List Byte) : List Byte :=
  frameBody kind h payload ++ wordBytes (crc16 (frameBody kind h payload))

/-- The header that bytes 1 to 3 of a frame hold (R2). -/
def headerAt (bytes : List Byte) : Header :=
  { source := Fin.ofNat 8 ((byteAt bytes 1).toNat / 32), carriage := Fin.ofNat 32 (byteAt bytes 1).toNat,
    level := Fin.ofNat 4 ((byteAt bytes 2).toNat / 64), sequence := byteAt bytes 3 }

/-! ### Received frames -/

/-- A frame the part receives (R1, R5). -/
inductive InFrame where
  | moveAbs (h : Header) (x y : Coord) (speed : Speed) (via : Byte)
  | moveRel (h : Header) (dx dy : Coord) (speed : Speed) (via : Byte)
  | setup (h : Header) (enables scale turn : Byte) (offset : Point) (tag : Byte)
  | stopCarriage (h : Header)
  | transit (h : Header) (payload : List Byte)
  | mgmtReq (h : Header) (request rid : Byte) (ops : List Byte)
  | done (h : Header) (at_ : Point) (stopped : Byte)
  | contact (h : Header) (at_ : Point)
deriving DecidableEq, Repr

/-- The kind code (R5). -/
def InFrame.kind : InFrame → Byte
  | .moveAbs .. => 0x21
  | .moveRel .. => 0x22
  | .setup .. => 0x23
  | .stopCarriage .. => 0x24
  | .transit .. => 0x2F
  | .mgmtReq .. => 0x30
  | .done .. => 0x51
  | .contact .. => 0x52

/-- The header. -/
def InFrame.header : InFrame → Header
  | .moveAbs h .. | .moveRel h .. | .setup h .. | .stopCarriage h | .transit h _ | .mgmtReq h .. | .done h .. | .contact h _ => h

/-- The payload (R5). -/
def InFrame.payload : InFrame → List Byte
  | .moveAbs _ x y speed via => coordBytes x ++ coordBytes y ++ wordBytes speed ++ [via]
  | .moveRel _ dx dy speed via => coordBytes dx ++ coordBytes dy ++ wordBytes speed ++ [via]
  | .setup _ enables scale turn offset tag => [enables, scale, turn] ++ pointBytes offset ++ [tag]
  | .stopCarriage _ => []
  | .transit _ payload => payload
  | .mgmtReq _ request rid ops => request :: rid :: ops
  | .done _ at_ stopped => pointBytes at_ ++ [stopped]
  | .contact _ at_ => pointBytes at_

/-- The frame as bytes (R2). -/
def InFrame.bytes (f : InFrame) : List Byte := frameBytes f.kind f.header f.payload

/-- The payload fits a frame: at most 40 bytes (R2). -/
def InFrame.fits (f : InFrame) : Bool := f.payload.length ≤ 40

/-- The kinds a port receives (R1). -/
def kindAccepted (p : Port) (kind : Byte) : Bool :=
  match p with
  | .u => kind = 0x21 || kind = 0x22 || kind = 0x23 || kind = 0x24 || kind = 0x2F || kind = 0x30
  | .d => kind = 0x51 || kind = 0x52 || kind = 0x2F

/-- The payload length a kind allows (R5, R7 check 3). -/
def lengthAllowed (kind : Byte) (n : Nat) : Bool :=
  if kind = 0x21 || kind = 0x22 then n = 9
  else if kind = 0x23 then n = 10
  else if kind = 0x24 then n = 0
  else if kind = 0x2F then n ≤ 40
  else if kind = 0x30 then 2 ≤ n && n ≤ 40
  else if kind = 0x51 then n = 7
  else if kind = 0x52 then n = 6
  else false

/-- The fields of a payload by its kind (R5). -/
def readPayload (kind : Byte) (h : Header) (payload : List Byte) : Option InFrame :=
  if kind = 0x21 then some (.moveAbs h (coordAt payload 0) (coordAt payload 3) (wordAt payload 6) (byteAt payload 8))
  else if kind = 0x22 then some (.moveRel h (coordAt payload 0) (coordAt payload 3) (wordAt payload 6) (byteAt payload 8))
  else if kind = 0x23 then
    some (.setup h (byteAt payload 0) (byteAt payload 1) (byteAt payload 2) (pointAt payload 3) (byteAt payload 9))
  else if kind = 0x24 then some (.stopCarriage h)
  else if kind = 0x2F then some (.transit h payload)
  else if kind = 0x30 then some (.mgmtReq h (byteAt payload 0) (byteAt payload 1) (payload.drop 2))
  else if kind = 0x51 then some (.done h (pointAt payload 0) (byteAt payload 6))
  else if kind = 0x52 then some (.contact h (pointAt payload 0))
  else none

/-- Check 1 of R7: at least 6 bytes, not overlong, and a correct check (R4). -/
def crcPasses (bytes : List Byte) (overlong : Bool) : Bool :=
  6 ≤ bytes.length && !overlong && wordAt bytes (bytes.length - 2) = crc16 (bytes.take (bytes.length - 2))

/-- The receive checks of R7 in their order, and the frame that passes them; `none` for a frame that fails one. -/
def checkFrame (p : Port) (bytes : List Byte) (overlong : Bool) : Option InFrame :=
  if crcPasses bytes overlong = false then none
  else if kindAccepted p (byteAt bytes 0) = false then none
  else
    let received := bytes.length - 6
    if lengthAllowed (byteAt bytes 0) ((byteAt bytes 2).toNat % 64) = false then none
    else if (byteAt bytes 2).toNat % 64 ≠ received then none
    else readPayload (byteAt bytes 0) (headerAt bytes) ((bytes.drop 4).take received)

/-! ### Frames the part sends -/

/-- The header of HALT_ALL and HEARTBEAT (R6). -/
def Header.zero : Header := { source := 0, carriage := 0, level := 0, sequence := 0 }

/-- A frame of DQ as bytes (R5, R6). -/
def DFrame.bytes : DFrame → List Byte
  | .driveMove h target speed => frameBytes 0x41 h (pointBytes target ++ wordBytes speed)
  | .driveStop h => frameBytes 0x44 h []
  | .heartbeat g c => frameBytes 0x46 Header.zero [g, c]
  | .transit h payload => frameBytes 0x2F h payload

/-- HALT_ALL as bytes (R5, R6). -/
def haltAllBytes : List Byte := frameBytes 0x45 Header.zero []

/-- The code of a verdict (R100). -/
def Verdict.code : Verdict → Byte
  | .clipped => 0x01
  | .held => 0x02
  | .released => 0x03
  | .refused => 0x04
  | .expired => 0x05
  | .withdrawn => 0x06
  | .cancelled => 0x07

/-- The code of a reason (R100). -/
def Reason.code : Reason → Byte
  | .none => 0x00
  | .source => 0x01
  | .carriage => 0x02
  | .standby => 0x03
  | .halted => 0x04
  | .busy => 0x05
  | .faulted => 0x06
  | .badValue => 0x07
  | .edge => 0x08
  | .closed => 0x09
  | .level => 0x0A
  | .portal => 0x0B
  | .depth => 0x0C
  | .speed => 0x0D
  | .full => 0x0E
  | .noRoom => 0x0F
  | .stop => 0x10
  | .end_ => 0x11

/-- The code of a status (R165). -/
def Status.code : Status → Byte
  | .ok => 0x00
  | .denied => 0x01
  | .unknown => 0x02
  | .locked => 0x03
  | .state => 0x04
  | .badIndex => 0x05
  | .badValue => 0x06
  | .inUse => 0x07
  | .noRoom => 0x08
  | .busy => 0x09

/-- A frame of UQ as bytes (R5, R6, R100, R164). -/
def UFrame.bytes : UFrame → List Byte
  | .verdict h v r adjusted speed => frameBytes 0x61 h ([v.code, r.code, byteOfBool adjusted] ++ wordBytes speed)
  | .mgmtRsp h request rid status data => frameBytes 0x31 h (request :: rid :: status.code :: data)
  | .doneUp h at_ stopped tag zone => frameBytes 0x71 h (pointBytes at_ ++ [stopped, tag, zone])
  | .contactUp h at_ tag zone => frameBytes 0x72 h (pointBytes at_ ++ [tag, zone])
  | .transit h payload => frameBytes 0x2F h payload

/-! ### Reception of bytes -/

/-- One byte received in RECEIVING (R7): added while the buffer holds fewer than 46, else the frame is overlong. -/
def Receiver.addByte (r : Receiver) (b : Byte) : Receiver :=
  if r.buffer.length < Config.bufferBytes then { r with buffer := r.buffer ++ [b] } else { r with overlong := true }

/-- A run of bytes received in RECEIVING (R7). -/
def Receiver.addBytes (r : Receiver) (bytes : List Byte) : Receiver := bytes.foldl Receiver.addByte r

/-- A receiver that has just taken a start symbol: RECEIVING with an empty buffer (R7). -/
def Receiver.started : Receiver := { receiving := true, buffer := [], overlong := false }

/-- The receiver after `bytes` of the frame that is to end: a receiver in IDLE takes the frame from its start symbol on
(log 1). -/
def Receiver.collect (r : Receiver) (bytes : List Byte) : Receiver :=
  (if r.receiving then r else Receiver.started).addBytes bytes

end Sys2Proof.Machine
end

