-- ==== Sys2Proof/Machine/Operands.lean ====
section
/-! DEFINITION. The operand bytes of the management requests, read field by field (R24, R46, R58, R61, R82, R130, R136, R141,
R157), with the range checks the rules give. The agent has checked the operand length before any of these is read (R163). -/

namespace Sys2Proof.Machine

/-- The carriage an operand byte names; `none` above 31 (R58, R60, R61, R63). -/
def carriageOf (b : Byte) : Option Carriage := if h : b.toNat < 32 then some ⟨b.toNat, h⟩ else none

/-- The zone 0..64 an operand byte names; `none` above 64 (R52, R123). -/
def zoneOf (b : Byte) : Option Zone := if h : b.toNat < 65 then some ⟨b.toNat, h⟩ else none

/-- The descriptor or wait list an operand byte names; `none` above 63 (R47, R122). -/
def zoneIndexOf (b : Byte) : Option ZoneIndex := if h : b.toNat < 64 then some ⟨b.toNat, h⟩ else none

/-- The source an operand byte names; `none` above 7 (R82, R83). -/
def sourceOf (b : Byte) : Option Source := if h : b.toNat < 8 then some ⟨b.toNat, h⟩ else none

/-- The window an operand byte names; `none` above 15 (R136, R138). -/
def windowOf (b : Byte) : Option (Fin 16) := if h : b.toNat < 16 then some ⟨b.toNat, h⟩ else none

/-- The cycle timer an operand byte names; `none` above 3 (R141, R142). -/
def timerOf (b : Byte) : Option (Fin 4) := if h : b.toNat < 4 then some ⟨b.toNat, h⟩ else none

/-- A level 0..3 (R48, R82). -/
def levelOf (b : Byte) : Option Level := if h : b.toNat < 4 then some ⟨b.toNat, h⟩ else none

/-- A yes or no byte: 00h or 01h (R82, R136, R141). -/
def boolOf (b : Byte) : Option Bool := if b = 0x00 then some false else if b = 0x01 then some true else none

/-- A box at byte `i`: x0, y0, x1, y1 (R24, R46). -/
def boxAt (ops : List Byte) (i : Nat) : Box :=
  { x0 := coordAt ops i, y0 := coordAt ops (i + 3), x1 := coordAt ops (i + 6), y1 := coordAt ops (i + 9) }

/-- A box that is not unordered (R24, R48). -/
def Box.ordered (b : Box) : Bool := b.x0.toInt ≤ b.x1.toInt && b.y0.toInt ≤ b.y1.toInt

/-- A speed policy byte (R46). -/
def policyOf (b : Byte) : Option SpeedPolicy := if b = 0x00 then some .clip else if b = 0x01 then some .refuse else none

/-- A window byte of a place: 00h..0Fh, or FFh for NONE; `none` for 10h..FEh (R46, R48). -/
def windowFieldOf (b : Byte) : Option (Option (Fin 16)) := if b = 0xFF then some none else (windowOf b).map some

/-- The place a WRITE_ZONE body describes, from byte 2 of the operands on; `none` where R48 answers BAD_VALUE. -/
def placeOf (guarded : Bool) (ops : List Byte) : Option Place :=
  let box := boxAt ops 2
  match levelOf (byteAt ops 14), policyOf (byteAt ops 18), windowFieldOf (byteAt ops 20) with
  | some guardLevel, some policy, some window =>
    if box.ordered && (byteAt ops 15).toNat ≤ 15 then
      some { guarded, box, guardLevel, capacity := (byteAt ops 15).toNat, speedLimit := wordAt ops 16, policy,
             holdLimit := (byteAt ops 19).toNat, window }
    else none
  | _, _, _ => none

/-- The portal a WRITE_ZONE body describes; `none` where R48 answers BAD_VALUE. -/
def portalOf (ops : List Byte) : Option Descriptor :=
  match zoneOf (byteAt ops 2), zoneIndexOf (byteAt ops 3), levelOf (byteAt ops 4) with
  | some fromZone, some toZone, some useLevel => some (.portal fromZone toZone useLevel)
  | _, _, _ => none

/-- The descriptor of a WRITE_ZONE (R46); `none` where R48 answers BAD_VALUE. -/
def descriptorOf (ops : List Byte) : Option Descriptor :=
  let kind := byteAt ops 1
  if kind = 0x00 then some .void
  else if kind = 0x01 then (placeOf false ops).map .place
  else if kind = 0x02 then (placeOf true ops).map .place
  else if kind = 0x03 then portalOf ops
  else none

/-- A box as twelve bytes (R25, R52). -/
def boxBytes (b : Box) : List Byte := coordBytes b.x0 ++ coordBytes b.y0 ++ coordBytes b.x1 ++ coordBytes b.y1

/-- A window field as a byte (R46). -/
def windowByte : Option (Fin 16) → Byte
  | none => 0xFF
  | some w => byteOf w.val

/-- Kind and body of a descriptor, 20 bytes, as READ_ZONE gives them (R52). -/
def descriptorBytes : Descriptor → List Byte
  | .void => 0x00 :: List.replicate 19 0x00
  | .place p =>
    (if p.guarded then 0x02 else 0x01) :: (boxBytes p.box ++
      [byteOf p.guardLevel.val, byteOf p.capacity] ++ wordBytes p.speedLimit ++
      [if p.policy = .clip then 0x00 else 0x01, byteOf p.holdLimit, windowByte p.window])
  | .portal f t u => 0x03 :: byteOf f.val :: byteOf t.val :: byteOf u.val :: List.replicate 16 0x00

/-! ### BCD, calendars and patterns -/

/-- Both halves of a byte are decimal digits (R130). -/
def isBcd (b : Byte) : Bool := b.toNat / 16 ≤ 9 && b.toNat % 16 ≤ 9

/-- The number a BCD byte holds, tens in its high half (R127). -/
def bcdValue (b : Byte) : Nat := b.toNat / 16 * 10 + b.toNat % 16

/-- A number 0..99 in BCD (R127). -/
def toBcd (n : Nat) : Byte := byteOf (n / 10 * 16 + n % 10)

/-- A BCD byte whose value lies in a range (R130, R133). -/
def bcdWithin (lo hi : Nat) (b : Byte) : Bool := isBcd b && lo ≤ bcdValue b && bcdValue b ≤ hi

/-- The length of a month in a year, both as numbers (R127). -/
def monthLength (month year : Nat) : Nat :=
  if month = 4 || month = 6 || month = 9 || month = 11 then 30
  else if month = 2 then (if year % 4 = 0 then 29 else 28)
  else 31

/-- The seven one-hot weekday values (R127). -/
def isWeekday (b : Byte) : Bool :=
  b = 0x01 || b = 0x02 || b = 0x04 || b = 0x08 || b = 0x10 || b = 0x20 || b = 0x40

/-- A valid set of calendar fields (R127, R130). -/
def Calendar.valid (c : Calendar) : Bool :=
  bcdWithin 0 59 c.seconds && bcdWithin 0 59 c.minutes && bcdWithin 0 23 c.hours && isWeekday c.weekday &&
  bcdWithin 1 12 c.month && bcdWithin 0 99 c.year &&
  bcdWithin 1 (monthLength (bcdValue c.month) (bcdValue c.year)) c.day

/-- The calendar fields of a SET_TIME, in the order of its operands (R130). -/
def calendarOf (ops : List Byte) : Calendar :=
  { seconds := byteAt ops 0, minutes := byteAt ops 1, hours := byteAt ops 2, weekday := byteAt ops 3,
    day := byteAt ops 4, month := byteAt ops 5, year := byteAt ops 6 }

/-- The calendar fields in the order READ_TIME gives them (R131). -/
def calendarBytes (c : Calendar) : List Byte := [c.seconds, c.minutes, c.hours, c.weekday, c.day, c.month, c.year]

/-- A pattern at byte `i` (R133). -/
def patternAt (ops : List Byte) (i : Nat) : Pattern :=
  { minute := byteAt ops i, hour := byteAt ops (i + 1), month := byteAt ops (i + 2), kind := byteAt ops (i + 3),
    value := byteAt ops (i + 4) }

/-- A pattern as five bytes (R133). -/
def patternBytes (p : Pattern) : List Byte := [p.minute, p.hour, p.month, p.kind, p.value]

/-- A pattern all of whose parts are values of R133. -/
def Pattern.valid (p : Pattern) : Bool :=
  (p.minute = 0xFF || bcdWithin 0 59 p.minute) && (p.hour = 0xFF || bcdWithin 0 23 p.hour) &&
  (p.month = 0xFF || bcdWithin 1 12 p.month) &&
  (if p.kind = 0x00 then p.value = 0xFF || bcdWithin 1 31 p.value
   else if p.kind = 0x01 then 0x01 ≤ p.value.toNat && p.value.toNat ≤ 0x7F
   else false)

/-- A pattern matches a calendar time (R133). -/
def Pattern.matchesTime (p : Pattern) (c : Calendar) : Bool :=
  (p.minute = 0xFF || p.minute = c.minutes) && (p.hour = 0xFF || p.hour = c.hours) &&
  (p.month = 0xFF || p.month = c.month) &&
  (if p.kind = 0x00 then p.value = 0xFF || p.value = c.day else p.value &&& c.weekday ≠ 0)

/-! ### Cycle timers -/

/-- A timer source byte (R141). -/
def timerSourceOf (b : Byte) : Option TimerSource :=
  if b = 0x00 then some .ms1 else if b = 0x01 then some .ms10 else if b = 0x02 then some .s1
  else if b = 0x03 then some .min1 else none

/-- The byte of a timer source (R142). -/
def TimerSource.code : TimerSource → Byte
  | .ms1 => 0x00
  | .ms10 => 0x01
  | .s1 => 0x02
  | .min1 => 0x03

/-- A timer action byte (R141). -/
def timerActionOf (b : Byte) : Option TimerAction :=
  if b = 0x00 then some .event else if b = 0x01 then some .heartbeat else none

/-- The byte of a timer action (R142). -/
def TimerAction.code : TimerAction → Byte
  | .event => 0x00
  | .heartbeat => 0x01

end Sys2Proof.Machine
end

