-- ==== Sys2Proof/Machine/Ops.lean ====
section
/-! DEFINITION. The operations the commands share: queues and pause states (R10 to R15), lookup (R41), claims (R104 to R106),
the verdict backlog (R119, R120), the hold pool and wait lists (R107 to R118), re-examination (R110 to R112), halt causes and
halt entry (R150, R152), and the purge with its undo (R18, R78). -/

namespace Sys2Proof.Machine

/-! ### The link unit -/

/-- Free places of DQ (R12). -/
def State.freeDq (s : State) : Nat := Config.queuePlaces - s.link.dq.length

/-- Free places of UQ (R12). -/
def State.freeUq (s : State) : Nat := Config.queuePlaces - s.link.uq.length

/-- The condition under which the port U receiver is PAUSED (R10). -/
def State.pauseCauseU (s : State) : Bool := s.freeDq < Config.reserve || s.freeUq < Config.reserve || s.gov.softPending

/-- The condition under which the port D receiver is PAUSED (R10). -/
def State.pauseCauseD (s : State) : Bool := s.freeUq < Config.reserve || s.gov.softPending

/-- What a pause state that takes the value `paused` sends: PAUSE or GO (R10). -/
def pauseSymbol (paused : Bool) : Wire := if paused then .pause else .go

/-- Re-evaluation of the port U pause state: a change is sent once, a state found unchanged sends nothing (R10). -/
def evalPauseU (s : State) : State :=
  if s.link.pausedU = s.pauseCauseU then s
  else { s with link := { s.link with pausedU := s.pauseCauseU }, wireU := s.wireU ++ [pauseSymbol s.pauseCauseU] }

/-- Re-evaluation of the port D pause state (R10). -/
def evalPauseD (s : State) : State :=
  if s.link.pausedD = s.pauseCauseD then s
  else { s with link := { s.link with pausedD := s.pauseCauseD }, wireD := s.wireD ++ [pauseSymbol s.pauseCauseD] }

/-- Re-evaluation of both pause states (R10). -/
def evalPauses (s : State) : State := evalPauseD (evalPauseU s)

/-- A frame enters DQ at its tail (R12); the pause states are re-evaluated (R10). -/
def pushDq (f : DFrame) (s : State) : State := evalPauses { s with link := { s.link with dq := s.link.dq ++ [f] } }

/-- A frame enters UQ at its tail, marked when it answers the RESET request (R12, R171). -/
def pushUqMarked (f : UFrame) (answersReset : Bool) (s : State) : State :=
  evalPauses { s with link := { s.link with uq := s.link.uq ++ [{ frame := f, answersReset }] } }

/-- A frame enters UQ at its tail (R12). -/
def pushUq (f : UFrame) (s : State) : State := pushUqMarked f false s

/-- An internal insertion may take a place of DQ: more than 3 are free (R14). -/
def State.dqOpen (s : State) : Bool := Config.reserve < s.freeDq

/-- An internal insertion may take a place of UQ: more than 3 are free (R14). -/
def State.uqOpen (s : State) : Bool := Config.reserve < s.freeUq

/-! ### The carriage table -/

/-- The context of a carriage. -/
def State.ctx (s : State) (c : Carriage) : Context := s.carriages[c]

/-- A context is replaced. -/
def setCtx (c : Carriage) (x : Context) (s : State) : State := { s with carriages := s.carriages.set c.val x }

/-- A context is changed in place. -/
def modifyCtx (c : Carriage) (f : Context → Context) (s : State) : State := setCtx c (f (s.ctx c)) s

/-- Enrolled: in any state other than UNENROLLED (R54). -/
def Context.enrolled (x : Context) : Bool := x.state ≠ .unenrolled

/-- The carriage is MOVING with an in-flight record that carries this source and sequence (R67, R70, R78). -/
def Context.movingRecord (x : Context) (source : Source) (sequence : Byte) : Option InFlight :=
  if x.state = .moving then x.inFlight.filter (fun r => r.source = source && r.sequence = sequence) else none

/-! ### The zone table -/

/-- The point lies in the box, edges included (R23, R37). -/
def Box.holds (b : Box) (p : Point) : Bool :=
  b.x0.toInt ≤ p.x.toInt && p.x.toInt ≤ b.x1.toInt && b.y0.toInt ≤ p.y.toInt && p.y.toInt ≤ b.y1.toInt

/-- The point lies on the floor (R23). -/
def ZoneTable.onFloor (t : ZoneTable) (p : Point) : Bool := t.floorValid && t.floorBox.holds p

/-- The floor zone as a present place (R40). -/
def floorPlace : Place :=
  { guarded := false, box := { x0 := 0x800000, y0 := 0x800000, x1 := 0x7FFFFF, y1 := 0x7FFFFF }, guardLevel := 3, capacity := 0,
    speedLimit := 0, policy := .clip, holdLimit := 0, window := none }

/-- The descriptor at an index is a present place that holds the point (R41). -/
def Descriptor.contains (d : Descriptor) (p : Point) : Bool :=
  match d with
  | .place pl => pl.box.holds p
  | _ => false

/-- The zone of a point under given descriptors: the lowest index of a present place that holds it, else 64 (R41). -/
def lookupIn (ds : Vector Descriptor 64) (p : Point) : Zone :=
  match (List.finRange 64).find? (fun i => ds[i].contains p) with
  | some i => i.castSucc
  | none => 64

/-- The lookup of a point (R41). -/
def State.lookup (s : State) (p : Point) : Zone := lookupIn s.table.descriptors p

/-- The descriptor of a zone 0..63; the floor zone as a place (R40). -/
def State.descriptor (s : State) (z : Zone) : Descriptor :=
  if h : z.val < 64 then s.table.descriptors[z.val] else .place floorPlace

/-- The fields of the place at a zone. A zone that is looked up or claimed is a present place or the floor zone (R39); for
any other index the floor zone's fields stand in (log 16). -/
def State.placeAt (s : State) (z : Zone) : Place :=
  match s.descriptor z with
  | .place p => p
  | _ => floorPlace

/-- A zone is open for entry (R44). -/
def State.zoneOpen (s : State) (z : Zone) : Bool :=
  match (s.placeAt z).window with
  | none => true
  | some w => s.time.windows[w].inUse && s.time.windows[w].isOpen

/-- The places whose window field names a window, in increasing index order (R45). -/
def State.zonesOfWindow (s : State) (w : Fin 16) : List ZoneIndex :=
  (List.finRange 64).filter fun i =>
    match s.table.descriptors[i] with
    | .place p => p.window = some w
    | _ => false

/-! ### Claims -/

/-- The claim count of a zone (R104). -/
def State.claimCount (s : State) (z : Zone) : Nat := s.occ.claims[z]

/-- The wait list of a zone; the floor zone has none (R108). -/
def State.waitList (s : State) (z : Zone) : List (Fin 16) := if h : z.val < 64 then s.occ.waits[z.val] else []

/-- A zone has room (R104). -/
def State.hasRoom (s : State) (z : Zone) : Bool := (s.placeAt z).capacity = 0 || s.claimCount z < (s.placeAt z).capacity

/-- Room and an empty wait list, as R58 step 6, R61 step 4 and R96 case 1 ask. -/
def State.freelyEntered (s : State) (z : Zone) : Bool := s.hasRoom z && (s.waitList z).isEmpty

/-- A grant adds one to a zone's claim count (R105). -/
def grantClaim (z : Zone) (s : State) : State :=
  { s with occ := { s.occ with claims := s.occ.claims.set z.val (s.claimCount z + 1) } }

/-- A release takes one from a zone's claim count (R106); the offer that follows is `offer`. -/
def dropClaim (z : Zone) (s : State) : State :=
  { s with occ := { s.occ with claims := s.occ.claims.set z.val (s.claimCount z - 1) } }

/-- The claimants of a zone, in increasing carriage order (R123). -/
def State.claimants (s : State) (z : Zone) : List Carriage :=
  (List.finRange 32).filter fun c =>
    let x := s.ctx c
    x.enrolled && (x.zone = z || x.inFlight.any (fun r => r.entry && r.targetZone = z))

/-! ### The verdict backlog -/

/-- The VERDICT composed from a backlog record (R6, R99, R120). -/
def BacklogRecord.frame (r : BacklogRecord) : UFrame :=
  .verdict { source := r.source, carriage := r.carriage, level := r.level, sequence := r.sequence } r.verdict r.reason
    r.adjusted r.speed

/-- Feeding moves the oldest records into UQ while it has more than 3 free places (R120); `n` bounds the records. -/
def feedLoop : Nat → State → State
  | 0, s => s
  | n + 1, s =>
    match s.occ.backlog with
    | [] => s
    | r :: rest =>
      if s.uqOpen then
        feedLoop n (modifyCtx r.carriage (fun x => { x with verdictOwed := false })
          (pushUq r.frame { s with occ := { s.occ with backlog := rest } }))
      else s

/-- The backlog is fed into UQ (R120). -/
def feed (s : State) : State := feedLoop s.occ.backlog.length s

/-- A record is appended: verdict owed is set, and the backlog is fed (R119, R120). -/
def appendRecord (r : BacklogRecord) (s : State) : State :=
  feed (modifyCtx r.carriage (fun x => { x with verdictOwed := true })
    { s with occ := { s.occ with backlog := s.occ.backlog ++ [r] } })

/-! ### The hold pool and the wait lists -/

/-- The pool's in-use count (R107). -/
def Occupancy.inUse (o : Occupancy) : Nat := o.pool.toList.countP Option.isSome

/-- HOLD_WARN is evaluated after one entry was taken (`rose`) or freed (R121). -/
def evalHoldWarn (rose : Bool) (s : State) : State :=
  if rose && s.occ.inUse = 12 && !s.occ.holdWarn then raise .holdx { s with occ := { s.occ with holdWarn := true } }
  else if !rose && s.occ.inUse = 8 && s.occ.holdWarn then raise .holdx { s with occ := { s.occ with holdWarn := false } }
  else s

/-- A pool entry is freed, and HOLD_WARN evaluated (R107, R121). -/
def freeEntry (e : Fin 16) (s : State) : State :=
  evalHoldWarn false { s with occ := { s.occ with pool := s.occ.pool.set e.val none } }

/-- A pool entry is written, and HOLD_WARN evaluated (R107, R109, R121). -/
def takeEntry (e : Fin 16) (h : HoldEntry) (s : State) : State :=
  evalHoldWarn true { s with occ := { s.occ with pool := s.occ.pool.set e.val (some h) } }

/-- The lowest-indexed free entry (R107). -/
def Occupancy.lowestFree (o : Occupancy) : Option (Fin 16) := (List.finRange 16).find? fun e => o.pool[e].isNone

/-- A wait list is replaced. -/
def setWaits (z : ZoneIndex) (l : List (Fin 16)) (s : State) : State :=
  { s with occ := { s.occ with waits := s.occ.waits.set z.val l } }

/-- A recheck-pending mark is written. -/
def setRecheck (z : ZoneIndex) (b : Bool) (s : State) : State :=
  { s with occ := { s.occ with recheck := s.occ.recheck.set z.val b } }

/-- The backlog record that reports the end of a hold (R119). -/
def HoldEntry.report (h : HoldEntry) (v : Verdict) (r : Reason) : BacklogRecord :=
  { carriage := h.carriage, source := h.source, sequence := h.sequence, level := h.level, verdict := v, reason := r,
    adjusted := h.adjusted, speed := h.speed }

/-- A held entry ends by expiry or withdrawal (R113, R115): it leaves its list wherever it stands and is freed, its carriage
becomes PARKED, its record enters the backlog, and a list left empty has its recheck-pending mark cleared. -/
def endHold (v : Verdict) (r : Reason) (e : Fin 16) (s : State) : State :=
  match s.occ.pool[e] with
  | none => s
  | some h =>
    let s := setWaits h.zone (s.occ.waits[h.zone].erase e) s
    let s := freeEntry e s
    let s := modifyCtx h.carriage (fun x => { x with state := .parked, holdRef := none }) s
    let s := appendRecord (h.report v r) s
    if s.occ.waits[h.zone].isEmpty then setRecheck h.zone false s else s

/-- Every entry of a zone's wait list is withdrawn with a reason, from the head to the tail (R117, R118). -/
def withdrawZone (r : Reason) (s : State) (z : ZoneIndex) : State :=
  s.occ.waits[z].foldl (fun s e => endHold .withdrawn r e s) s

/-- A window has closed: the waiters of the zones that refer to it are withdrawn (R117). -/
def withdrawForWindow (w : Fin 16) (s : State) : State := (s.zonesOfWindow w).foldl (withdrawZone .closed) s

/-! ### Re-examination -/

/-- The in-flight record written at a forward (R66): the deadline is armed by a nonzero move limit. -/
def newRecord (x : Context) (source : Source) (sequence : Byte) (level : Level) (target : Point) (targetZone : Zone) (entry : Bool)
    (pops : Nat) (push : Option StackRecord) : InFlight :=
  { source, sequence, level, target, targetZone, originZone := x.zone, entry, pops, push,
    deadline := if x.moveLimit = 0 then none else some x.moveLimit, sent := false }

/-- The carriage becomes MOVING with a record, and its hold reference is dropped (R66, R97, R111). -/
def Context.forwarded (x : Context) (r : InFlight) : Context := { x with state := .moving, inFlight := some r, holdRef := none }

/-- A pass over a zone's wait list takes its head entry `e`, which holds `h` (R111). -/
def pass (z : ZoneIndex) (e : Fin 16) (h : HoldEntry) (rest : List (Fin 16)) (s : State) : State :=
  let s := setWaits z rest s
  let s := pushDq (.driveMove { source := h.source, carriage := h.carriage, level := h.level, sequence := h.sequence } h.target
    h.speed) s
  let s := modifyCtx h.carriage
    (fun x => x.forwarded (newRecord x h.source h.sequence h.level h.target h.zone.castSucc true h.pops h.push)) s
  let s := grantClaim z.castSucc s
  let s := freeEntry e s
  appendRecord (h.report .released .none) s

/-- The five conditions of a pass (R110). -/
def State.passAllowed (s : State) (z : ZoneIndex) : Bool :=
  s.gov.state = .governing && s.hasRoom z.castSucc && !s.occ.waits[z].isEmpty && s.dqOpen && s.uqOpen

/-- Passes are made while the five conditions hold (R110); `n` bounds the waiters. An index that names a free entry, which
R108 excludes, is dropped (log 16). -/
def passLoop (z : ZoneIndex) : Nat → State → State
  | 0, s => s
  | n + 1, s =>
    if s.passAllowed z then
      match s.occ.waits[z] with
      | [] => s
      | e :: rest =>
        match s.occ.pool[e] with
        | none => passLoop z n (setWaits z rest s)
        | some h => passLoop z n (pass z e h rest s)
    else s

/-- The recheck-pending mark a re-examination leaves: set with room and waiters, else clear (R110, R112). -/
def markRecheck (z : ZoneIndex) (s : State) : State := setRecheck z (s.hasRoom z.castSucc && !s.occ.waits[z].isEmpty) s

/-- The re-examination of a zone (R110). -/
def reexamine (z : ZoneIndex) (s : State) : State := markRecheck z (passLoop z s.occ.waits[z].length s)

/-- A zone is offered for re-examination after a release (R106). -/
def offer (z : Zone) (s : State) : State :=
  if h : z.val < 64 then
    let i : ZoneIndex := ⟨z.val, h⟩
    if s.occ.waits[i].isEmpty then setRecheck i false s
    else if s.hasRoom z then reexamine i s
    else s
  else s

/-- A claim is released and its zone offered (R106). -/
def releaseClaim (z : Zone) (s : State) : State := offer z (dropClaim z s)

/-- Every zone marked pending is re-examined, in increasing index order (R112). -/
def servePending (s : State) : State :=
  (List.finRange 64).foldl (fun s z => if s.occ.recheck[z] then reexamine z s else s) s

/-! ### Halts -/

/-- The frame is a DRIVE_MOVE. -/
def DFrame.isDriveMove : DFrame → Bool
  | .driveMove .. => true
  | _ => false

/-- The frames of DQ that a purge may remove: all but the head that is being sent (R18). -/
def Link.unsent (l : Link) : List DFrame := if l.txD = .frame then l.dq.tail else l.dq

/-- The DRIVE_MOVE frames a purge removes, oldest first (R18). -/
def Link.purged (l : Link) : List DFrame := l.unsent.filter DFrame.isDriveMove

/-- DQ after a purge (R18). -/
def Link.kept (l : Link) : List DFrame :=
  (if l.txD = .frame then l.dq.take 1 else []) ++ l.unsent.filter (fun f => !f.isDriveMove)

/-- The CANCELLED/HALTED record of an undone move (R119). -/
def cancelledRecord (c : Carriage) (r : InFlight) : BacklogRecord :=
  { carriage := c, source := r.source, sequence := r.sequence, level := r.level, verdict := .cancelled, reason := .halted,
    adjusted := false, speed := 0 }

/-- The undo of one purged move (R78). A frame that matches no MOVING carriage's record, which R66 excludes, undoes nothing
(log 16). -/
def undoPurged (s : State) (f : DFrame) : State :=
  match f with
  | .driveMove h _ _ =>
    match (s.ctx h.carriage).movingRecord h.source h.sequence with
    | none => s
    | some r =>
      let s := modifyCtx h.carriage (fun x => { x with inFlight := none, state := .parked }) s
      let s := if r.entry then releaseClaim r.targetZone s else s
      appendRecord (cancelledRecord h.carriage r) s
  | _ => s

/-- Steps 1 to 3 of a halt entry: HALTED, the halt slot filled, DQ purged (R152). -/
def haltAndPurge (s : State) : State :=
  { s with gov := { s.gov with state := .halted }, link := { s.link with haltSlot := true, dq := s.link.kept } }

/-- A halt entry, with its five steps in order (R152). The gain of places is announced once, when there is one (R15). -/
def haltEntry (s : State) : State :=
  let removed := s.link.purged
  let s := removed.foldl undoPurged (haltAndPurge s)
  evalPauses (if removed.isEmpty then s else servePending s)

/-- The causes a halt enable governs (R150, R151). -/
inductive Cause where
  | edge
  | contact
  | timeout
  | stray
deriving DecidableEq, Repr

/-- The flag a cause sets (R150). -/
def Cause.flag : Cause → Flag
  | .edge => .edge
  | .contact => .contact
  | .timeout => .timeout
  | .stray => .stray

/-- The halt enable bit of a cause (R157). -/
def Cause.bit : Cause → Nat
  | .edge => 0
  | .contact => 1
  | .timeout => 2
  | .stray => 3

/-- A halt cause with an enable is taken: its flag is set, and in GOVERNING its enable leads to a halt entry (R150; for the
causes that R150 says do not occur in a state, log 22). -/
def takeCause (k : Cause) (s : State) : State :=
  let t := raise k.flag s
  if s.gov.state = .governing && s.gov.haltEnables.getLsbD k.bit then haltEntry t else t

/-- The STOPn assertion or the STOP request is taken (R150): no effect in STANDBY, flag and halt entry in GOVERNING, flag in
HALTED. -/
def takeStop (s : State) : State :=
  match s.gov.state with
  | .standby => s
  | .governing => haltEntry (raise .stop s)
  | .halted => raise .stop s

end Sys2Proof.Machine
end

