-- ==== Sys2Proof/Machine/Translation.lean ====
section
/-! DEFINITION. Translation of controller moves into floor targets (R26, R31 to R33). `none` is the outcome EDGE. -/

namespace Sys2Proof.Machine

/-- The value lies in the coordinate range (R26). -/
def inRange (v : Int) : Bool := -8388608 ≤ v && v ≤ 8388607

/-- Both components lie in the coordinate range (R26). -/
def bothInRange (v : Int × Int) : Bool := inRange v.1 && inRange v.2

/-- A pair of sums becomes the target when both lie in range and the point lies on the floor (R32 stage 3, R33). -/
def onFloorTarget (t : ZoneTable) (v : Int × Int) : Option Point :=
  let p : Point := { x := BitVec.ofInt 24 v.1, y := BitVec.ofInt 24 v.2 }
  if bothInRange v && t.onFloor p then some p else none

/-- A vector turned counter-clockwise by quarter-turns (R32). -/
def turnVector (turn : Fin 4) (v : Int × Int) : Int × Int :=
  match turn with
  | 0 => (v.1, v.2)
  | 1 => (-v.2, v.1)
  | 2 => (-v.1, -v.2)
  | 3 => (v.2, -v.1)

/-- Translation of a MOVE_REL: scale, turn, place, each tested in order (R32). -/
def translateRel (t : ZoneTable) (x : Context) (dx dy : Coord) : Option Point :=
  let scaled : Int × Int := (dx.toInt * x.scale.toNat, dy.toInt * x.scale.toNat)
  if bothInRange scaled = false then none
  else
    let turned := turnVector x.turn scaled
    if bothInRange turned = false then none
    else onFloorTarget t (x.position.x.toInt + turned.1, x.position.y.toInt + turned.2)

/-- Translation of a MOVE_ABS: the offset is added (R33). -/
def translateAbs (t : ZoneTable) (ctx : Context) (x y : Coord) : Option Point :=
  onFloorTarget t (x.toInt + ctx.offset.x.toInt, y.toInt + ctx.offset.y.toInt)

end Sys2Proof.Machine
end

