-- ==== Sys2Proof/Machine/Admission.lean ====
section
/-! DEFINITION. Admission: effective level (R81), the ordered check of a move (R84 to R96) and its outcomes (R97 to R99), SETUP
(R28, R29), STOP_CARRIAGE (R101) and TRANSIT (R19, R102). -/

namespace Sys2Proof.Machine

/-- The effective level of a frame: the larger of its level field and its source's ceiling (R81). -/
def State.effectiveLevel (s : State) (h : Header) : Level :=
  if h.level < s.sources[h.source].ceiling then s.sources[h.source].ceiling else h.level

/-- The adjusted mark of a frame: the ceiling raised the number (R81). -/
def State.adjusted (s : State) (h : Header) : Bool := h.level < s.sources[h.source].ceiling

/-- The header of a frame composed in answer to `h` or carrying it on: the effective level in place of the level (R6). -/
def State.effectiveHeader (s : State) (h : Header) : Header := { h with level := s.effectiveLevel h }

/-- An immediate VERDICT answering a frame with header `h`, placed in UQ (R99). -/
def answer (h : Header) (v : Verdict) (r : Reason) (speed : Speed) (s : State) : State :=
  pushUq (.verdict (s.effectiveHeader h) v r (s.adjusted h) speed) s

/-- An immediate REFUSED verdict (R99). -/
def refuse (h : Header) (r : Reason) (speed : Speed) (s : State) : State := answer h .refused r speed s

/-! ### Step 10: level, clearance and portals -/

/-- Unwinding (R90): the planned pops and the prospective clearance PC, from the top of the stack (head of the list). -/
def unwind (guardLevel clearance : Level) : List StackRecord → Nat × Level
  | [] => (0, clearance)
  | r :: rest =>
    if r.saved ≤ guardLevel then
      let (n, pc) := unwind guardLevel r.saved rest
      (n + 1, pc)
    else (0, clearance)

/-- The four tests of a named portal (R92): `none` when it passes. -/
def judgePortal (d : Descriptor) (level : Level) (current : Zone) (target : Zone) : Option Reason :=
  match d with
  | .portal fromZone toZone useLevel =>
    if useLevel < level then some .level
    else if fromZone ≠ current then some .portal
    else if toZone.castSucc ≠ target then some .portal
    else none
  | _ => some .portal

/-- The plan of a move: pops and an optional push of the portal stack (R93). -/
structure Plan where
  pops : Nat
  push : Option StackRecord
deriving DecidableEq, Repr

/-- The plan that changes nothing: a stay move's (R88). -/
def Plan.none : Plan := { pops := 0, push := Option.none }

/-- Step 10 for an entry move (R90 to R94): the plan, or the reason of the refusal. A via of 40h..FEh has been refused at
step 6. -/
def judgeClearance (s : State) (x : Context) (level : Level) (via : Byte) (target : Zone) : Except Reason Plan :=
  let place := s.placeAt target
  let gl := place.guardLevel
  let (pops, pc) := unwind gl x.clearance x.stack
  if gl < level then .error .level
  else
    match zoneIndexOf via with
    | Option.none =>
      if place.guarded && pc ≠ gl then .error .level else .ok { pops, push := Option.none }
    | some portal =>
      match judgePortal s.table.descriptors[portal] level x.zone target with
      | some r => .error r
      | Option.none =>
        if gl < pc then
          if 4 ≤ x.stack.length - pops then .error .depth
          else .ok { pops, push := some { saved := pc, portal } }
        else if place.guarded && pc ≠ gl then .error .level
        else .ok { pops, push := Option.none }

/-! ### Step 11: the speed bound -/

/-- The binding place of a move from `origin` to `target` (R95); `none` when neither limits. -/
def bindingPlace (origin target : Place) : Option Place :=
  if origin.speedLimit = 0 then (if target.speedLimit = 0 then Option.none else some target)
  else if target.speedLimit = 0 then some origin
  else if origin.speedLimit.toNat < target.speedLimit.toNat then some origin
  else some target

/-- Step 11 (R95): the speed the move carries and its clipped mark, or the bound it is refused with. -/
def judgeSpeed (origin target : Place) (speed : Speed) : Except Speed (Speed × Bool) :=
  match bindingPlace origin target with
  | Option.none => .ok (speed, false)
  | some b =>
    if b.speedLimit.toNat < speed.toNat then
      match b.policy with
      | .refuse => .error b.speedLimit
      | .clip => .ok (b.speedLimit, true)
    else .ok (speed, false)

/-! ### The check -/

/-- A move that has passed steps 1 to 11. -/
structure Admitted where
  target : Point
  zone : Zone
  entry : Bool
  plan : Plan
  speed : Speed
  clipped : Bool
deriving DecidableEq, Repr

/-- The outcome of the admission check (R84). -/
inductive Judgement where
  | refused (r : Reason) (speed : Speed)
  | edge
  | forward (m : Admitted)
  | hold (m : Admitted) (zone : ZoneIndex) (entry : Fin 16)
deriving DecidableEq, Repr

/-- Step 12 for an entry move (R96). The floor zone always has room and no wait list. -/
def judgeRoom (s : State) (m : Admitted) : Judgement :=
  if s.freelyEntered m.zone then .forward m
  else if h : m.zone.val < 64 then
    if (s.placeAt m.zone).holdLimit = 0 then .refused .full 0
    else
      match s.occ.lowestFree with
      | Option.none => .refused .noRoom 0
      | some e => .hold m ⟨m.zone.val, h⟩ e
  else .forward m

/-- Steps 8 to 12 for a target point (R88 to R96). -/
def judgeTarget (s : State) (x : Context) (level : Level) (speed : Speed) (via : Byte) (target : Point) : Judgement :=
  let zone := s.lookup target
  let origin := s.placeAt x.zone
  if zone = x.zone then
    match judgeSpeed origin (s.placeAt zone) speed with
    | .error bound => .refused .speed bound
    | .ok (v, clipped) => .forward { target, zone, entry := false, plan := .none, speed := v, clipped }
  else if s.zoneOpen zone = false then .refused .closed 0
  else
    match judgeClearance s x level via zone with
    | .error r => .refused r 0
    | .ok plan =>
      match judgeSpeed origin (s.placeAt zone) speed with
      | .error bound => .refused .speed bound
      | .ok (v, clipped) => judgeRoom s { target, zone, entry := true, plan, speed := v, clipped }

/-- The admission check (R84 to R96). `translate` is the translation of the move's kind, made at step 7. -/
def judgeMove (s : State) (h : Header) (speed : Speed) (via : Byte) (target : Option Point) : Judgement :=
  let x := s.ctx h.carriage
  if s.sources[h.source].enabled = false then .refused .source 0
  else if s.gov.state = .standby then .refused .standby 0
  else if s.gov.state = .halted then .refused .halted 0
  else
    match x.state with
    | .unenrolled => .refused .carriage 0
    | .moving | .held => .refused .busy 0
    | .faulted => .refused .faulted 0
    | .parked =>
      if x.verdictOwed then .refused .busy 0
      else if speed = 0 || (0x40 ≤ via.toNat && via.toNat ≤ 0xFE) then .refused .badValue 0
      else
        match target with
        | Option.none => .edge
        | some p => judgeTarget s x (s.effectiveLevel h) speed via p

/-! ### Outcomes -/

/-- A move is forwarded at its arrival (R97). -/
def forward (h : Header) (m : Admitted) (s : State) : State :=
  let level := s.effectiveLevel h
  let x := s.ctx h.carriage
  let clippedVerdict := UFrame.verdict (s.effectiveHeader h) .clipped .none (s.adjusted h) m.speed
  let s := pushDq (.driveMove (s.effectiveHeader h) m.target m.speed) s
  let s := setCtx h.carriage
    (x.forwarded (newRecord x h.source h.sequence level m.target m.zone m.entry m.plan.pops m.plan.push)) s
  let s := if m.entry then grantClaim m.zone s else s
  if m.clipped then pushUq clippedVerdict s else s

/-- The hold-pool entry of a held move (R98, R107): hold remaining starts at the zone's hold limit. -/
def State.holdEntry (s : State) (h : Header) (m : Admitted) (z : ZoneIndex) : HoldEntry :=
  { carriage := h.carriage, source := h.source, sequence := h.sequence, level := s.effectiveLevel h, adjusted := s.adjusted h,
    target := m.target, zone := z, speed := m.speed, clipped := m.clipped, pops := m.plan.pops, push := m.plan.push,
    remaining := (s.placeAt z.castSucc).holdLimit }

/-- A move is held at its arrival (R98, R109), and answered HELD. -/
def hold (h : Header) (m : Admitted) (z : ZoneIndex) (e : Fin 16) (s : State) : State :=
  let entry := s.holdEntry h m z
  let s := setWaits z (s.occ.waits[z] ++ [e]) s
  let s := modifyCtx h.carriage (fun x => { x with state := .held, holdRef := some e }) s
  let s := takeEntry e entry s
  answer h .held .none m.speed s

/-- What the outcome of the check does (R84, R87, R97 to R99). An EDGE is answered before governor control takes it (R87). -/
def dispose (h : Header) (o : Judgement) (s : State) : State :=
  match o with
  | .refused r speed => refuse h r speed s
  | .edge => takeCause .edge (refuse h .edge 0 s)
  | .forward m => forward h m s
  | .hold m z e => hold h m z e s

/-- A MOVE_ABS that has arrived (R33, R84). -/
def takeMoveAbs (h : Header) (x y : Coord) (speed : Speed) (via : Byte) (s : State) : State :=
  dispose h (judgeMove s h speed via (translateAbs s.table (s.ctx h.carriage) x y)) s

/-- A MOVE_REL that has arrived (R32, R84). -/
def takeMoveRel (h : Header) (dx dy : Coord) (speed : Speed) (via : Byte) (s : State) : State :=
  dispose h (judgeMove s h speed via (translateRel s.table (s.ctx h.carriage) dx dy)) s

/-! ### SETUP -/

/-- Every enabled field of a SETUP lies in its range (R28 step 3). -/
def setupInRange (enables scale turn tag : Byte) : Bool :=
  (!enables.getLsbD 0 || (1 ≤ scale.toNat && scale.toNat ≤ 16)) && (!enables.getLsbD 1 || turn.toNat ≤ 3) &&
  (!enables.getLsbD 3 || tag.toNat ≤ 127)

/-- The enabled fields are written, together (R29). -/
def Context.setUp (x : Context) (enables scale turn : Byte) (offset : Point) (tag : Byte) : Context :=
  { x with
    scale := if enables.getLsbD 0 then scale else x.scale
    turn := if enables.getLsbD 1 then Fin.ofNat 4 turn.toNat else x.turn
    offset := if enables.getLsbD 2 then offset else x.offset
    tag := if enables.getLsbD 3 then tag.setWidth 7 else x.tag }

/-- A SETUP that has arrived (R28, R29). -/
def takeSetup (h : Header) (enables scale turn : Byte) (offset : Point) (tag : Byte) (s : State) : State :=
  if s.sources[h.source].enabled = false then refuse h .source 0 s
  else if (s.ctx h.carriage).enrolled = false then refuse h .carriage 0 s
  else if setupInRange enables scale turn tag = false then refuse h .badValue 0 s
  else modifyCtx h.carriage (fun x => x.setUp enables scale turn offset tag) s

/-! ### STOP_CARRIAGE and TRANSIT -/

/-- A HELD carriage's entry is withdrawn with reason STOP; in any other state nothing is withdrawn (R101, R116). -/
def stopWithdrawal (c : Carriage) (s : State) : State :=
  if (s.ctx c).state = .held then
    match (s.ctx c).holdRef with
    | some e => endHold .withdrawn .stop e s
    | Option.none => s
  else s

/-- A STOP_CARRIAGE that has arrived (R101, R36). -/
def takeStopCarriage (h : Header) (s : State) : State :=
  if s.sources[h.source].enabled = false then refuse h .source 0 s
  else if (s.ctx h.carriage).enrolled = false then refuse h .carriage 0 s
  else pushDq (.driveStop (s.effectiveHeader h)) (stopWithdrawal h.carriage s)

/-- A TRANSIT that has arrived on port U (R19, R102). -/
def takeTransitU (h : Header) (payload : List Byte) (s : State) : State :=
  if s.sources[h.source].enabled then pushDq (.transit h payload) s else refuse h .source 0 s

/-- A TRANSIT that has arrived on port D (R19). -/
def takeTransitD (h : Header) (payload : List Byte) (s : State) : State := pushUq (.transit h payload) s

end Sys2Proof.Machine
end

