-- ==== Sys2Proof/Machine/Drive.lean ====
section
/-! DEFINITION. Drive reports: DONE with commit, undo, stay and stray (R70 to R74), CONTACT (R75), their annotation (R20,
R21), and the sent mark (R67). -/

namespace Sys2Proof.Machine

/-- The planned pops applied: each removal sets the clearance to the removed record's saved clearance (R71). -/
def applyPops : Nat → List StackRecord → Level → List StackRecord × Level
  | 0, stack, c => (stack, c)
  | _ + 1, [], c => ([], c)
  | n + 1, r :: rest, _ => applyPops n rest r.saved

/-- The planned pops and push applied: a push sets the clearance to the target's guard level (R71). -/
def applyPlan (pops : Nat) (push : Option StackRecord) (guardLevel : Level) (stack : List StackRecord) (c : Level) :
    List StackRecord × Level :=
  let popped := applyPops pops stack c
  match push with
  | none => popped
  | some r => (r :: popped.1, guardLevel)

/-- The context after a commit (R71). -/
def Context.committed (x : Context) (r : InFlight) (p : Point) (guardLevel : Level) : Context :=
  let (stack, clearance) := applyPlan r.pops r.push guardLevel x.stack x.clearance
  { x with stack, clearance, position := p, zone := r.targetZone, inFlight := none, state := .parked }

/-- The context after an undo or a stay: the position is the reported point (R72). -/
def Context.restedAt (x : Context) (p : Point) : Context := { x with position := p, inFlight := none, state := .parked }

/-- The context after a stray: the record stays, without a deadline (R73). -/
def Context.strayed (x : Context) (r : InFlight) (p : Point) : Context :=
  { x with state := .faulted, faultCause := some .stray, reported := some p, inFlight := some { r with deadline := none } }

/-- The resolution of a matching DONE (R70): commit, undo, stay or stray. -/
inductive Resolution where
  | commit
  | undo
  | stay
  | stray
deriving DecidableEq, Repr

/-- The first case of R70 that applies. -/
def resolution (s : State) (x : Context) (r : InFlight) (p : Point) : Resolution :=
  let final := s.lookup p
  if s.table.onFloor p = false then .stray
  else if r.entry && final = r.targetZone then .commit
  else if r.entry && final = r.originZone then .undo
  else if !r.entry && final = x.zone then .stay
  else .stray

/-- A matching DONE is resolved (R70 to R73). -/
def resolveDone (c : Carriage) (r : InFlight) (p : Point) (s : State) : State :=
  let x := s.ctx c
  match resolution s x r p with
  | .commit => releaseClaim r.originZone (setCtx c (x.committed r p (s.placeAt r.targetZone).guardLevel) s)
  | .undo => releaseClaim r.targetZone (setCtx c (x.restedAt p) s)
  | .stay => setCtx c (x.restedAt p) s
  | .stray => takeCause .stray (setCtx c (x.strayed r p) s)

/-- The late DONE of a TIMEOUT fault: it carries the record's source and sequence (R74). -/
def Context.lateDone (x : Context) (source : Source) (sequence : Byte) : Bool :=
  x.state = .faulted && x.faultCause = some .timeout &&
    x.inFlight.any (fun r => r.source = source && r.sequence = sequence)

/-- The carriage table takes a DONE (R70, R74). -/
def carriageDone (h : Header) (p : Point) (s : State) : State :=
  match ((s.ctx h.carriage).movingRecord h.source h.sequence).filter (·.sent) with
  | some r => resolveDone h.carriage r p s
  | none =>
    if (s.ctx h.carriage).lateDone h.source h.sequence then
      modifyCtx h.carriage (fun x => { x with reported := some p }) s
    else s

/-- The tag byte of an annotated report: FFh for an UNENROLLED carriage (R20). -/
def State.tagByte (s : State) (c : Carriage) : Byte :=
  if (s.ctx c).enrolled then (s.ctx c).tag.setWidth 8 else 0xFF

/-- The zone byte of an annotated report (R20). -/
def State.zoneByte (s : State) (p : Point) : Byte := byteOf (s.lookup p).val

/-- A DONE that has arrived: the carriage table takes it, then one DONE_UP enters UQ (R20). -/
def takeDone (h : Header) (p : Point) (stopped : Byte) (s : State) : State :=
  let s := carriageDone h p s
  pushUq (.doneUp h p stopped (s.tagByte h.carriage) (s.zoneByte p)) s

/-- A CONTACT that has arrived: governor control takes it, then one CONTACT_UP enters UQ (R21, R75). -/
def takeContact (h : Header) (p : Point) (s : State) : State :=
  let s := takeCause .contact s
  pushUq (.contactUp h p (s.tagByte h.carriage) (s.zoneByte p)) s

/-- A DRIVE_MOVE has completed transmission: a matching record is marked sent (R67). -/
def markSent (h : Header) (s : State) : State :=
  match (s.ctx h.carriage).movingRecord h.source h.sequence with
  | none => s
  | some r => modifyCtx h.carriage (fun x => { x with inFlight := some { r with sent := true } }) s

end Sys2Proof.Machine
end

