-- ==== Sys2Proof/Machine/Governing.lean ====
section
/-! DEFINITION. The answer of a management request, and the requests of governor control: READ_STATUS, CLEAR_FLAGS, SET_ALERT,
READ_ALERT, READ_CAUSE, START, STOP, RESUME, END, LOCK (R145 to R170). -/

namespace Sys2Proof.Machine

/-- What a block answers to a request (R163, R164): the state it leaves, the status, and the data of an OK. -/
structure Answer where
  state : State
  status : Status
  data : List Byte

/-- The request is refused with a status: nothing changes, no data (R164, R165). -/
def Answer.refuse (status : Status) (s : State) : Answer := { state := s, status, data := [] }

/-- The request is taken: OK without data. -/
def Answer.ok (s : State) : Answer := { state := s, status := .ok, data := [] }

/-- The request is taken and answered OK with data; the state is as it was. -/
def Answer.read (data : List Byte) (s : State) : Answer := { state := s, status := .ok, data }

/-- READ_STATUS (R167). -/
def reqReadStatus (_ops : List Byte) (s : State) : Answer :=
  .read ([s.gov.state.code] ++ wordBytes (s.gov.flags.setWidth 16) ++
    [byteOf ((if s.occ.holdWarn then 1 else 0) + (if s.time.timeInvalid then 2 else 0) + (if s.gov.lock then 4 else 0)),
     byteOf s.occ.inUse, byteOf s.occ.backlog.length]) s

/-- CLEAR_FLAGS: bits 12 to 15 of the mask are ignored (R154). -/
def reqClearFlags (ops : List Byte) (s : State) : Answer :=
  .ok { s with gov := s.gov.clearFlags ((wordAt ops 0).setWidth 12) }

/-- SET_ALERT (R157). -/
def reqSetAlert (ops : List Byte) (s : State) : Answer :=
  if s.gov.lock then .refuse .locked s
  else if wordAt ops 0 &&& 0xF000 ≠ 0 || byteAt ops 2 &&& 0xF0 ≠ 0 then .refuse .badValue s
  else .ok { s with gov := s.gov.writeEnables ((wordAt ops 0).setWidth 12) ((byteAt ops 2).setWidth 4) }

/-- READ_ALERT (R158). -/
def reqReadAlert (_ops : List Byte) (s : State) : Answer :=
  .read (wordBytes (s.gov.alertEnables.setWidth 16) ++ [s.gov.haltEnables.setWidth 8] ++
    [byteOf ((if s.gov.alertLow then 1 else 0) + (if s.gov.stopn then 2 else 0)), byteOf s.gov.pulseBits]) s

/-- READ_CAUSE: the cause flags are answered and cleared (R161). -/
def reqReadCause (_ops : List Byte) (s : State) : Answer :=
  { state := { s with gov := { s.gov with cause := 0 } }, status := .ok, data := [s.gov.cause.setWidth 8] }

/-- The governor enters GOVERNING, and the pending zones are served (R112, R145, R147). -/
def enterGoverning (s : State) : State := servePending { s with gov := { s.gov with state := .governing } }

/-- START (R145). -/
def reqStart (_ops : List Byte) (s : State) : Answer :=
  if s.gov.state ≠ .standby || !s.table.floorValid || s.gov.stopn then .refuse .state s
  else .ok (enterGoverning { s with gov := s.gov.clearFlags 0xFFF })

/-- STOP (R146): refused in STANDBY, otherwise taken as a halt cause. -/
def reqStop (_ops : List Byte) (s : State) : Answer :=
  if s.gov.state = .standby then .refuse .state s else .ok (takeStop s)

/-- RESUME (R147): the five halt-cause flags are cleared, and the governor goes to GOVERNING. -/
def reqResume (_ops : List Byte) (s : State) : Answer :=
  if s.gov.state ≠ .halted || s.gov.stopn then .refuse .state s
  else .ok (enterGoverning { s with gov := s.gov.clearFlags haltCauseMask })

/-- Some carriage is MOVING (R148). -/
def State.anyMoving (s : State) : Bool := s.carriages.toList.any (fun x => x.state = .moving)

/-- END (R148): every held move is withdrawn, then the governor enters STANDBY. -/
def reqEnd (_ops : List Byte) (s : State) : Answer :=
  if s.gov.state = .standby then .refuse .state s
  else if s.anyMoving then .refuse .busy s
  else
    let s := (List.finRange 64).foldl (withdrawZone .end_) s
    .ok { s with gov := { s.gov with state := .standby } }

/-- LOCK (R170). -/
def reqLock (_ops : List Byte) (s : State) : Answer := .ok { s with gov := { s.gov with lock := true } }

/-- RESET: the request itself changes nothing before its response is placed; the pending mark follows (R171). -/
def reqReset (_ops : List Byte) (s : State) : Answer := .ok s

end Sys2Proof.Machine
end

