-- ==== Sys2Proof/Machine/Contexts.lean ====
section
/-! DEFINITION. The requests on carriage contexts and occupancy: ENROLL, WITHDRAW_CARRIAGE, RELEASE_CARRIAGE, READ_CARRIAGE,
FIND_TAG (R58 to R65), READ_WAITLIST, READ_OCCUPANCY (R122, R123). -/

namespace Sys2Proof.Machine

/-- The context an ENROLL writes (R59). -/
def Context.enrolledAt (p : Point) (z : Zone) (tag : Byte) (moveLimit : Nat) : Context :=
  { Context.unenrolled with state := .parked, position := p, zone := z, tag := tag.setWidth 7, moveLimit }

/-- ENROLL (R58, R59). -/
def reqEnroll (ops : List Byte) (s : State) : Answer :=
  match carriageOf (byteAt ops 0) with
  | none => .refuse .badIndex s
  | some c =>
    let p := pointAt ops 1
    let tag := byteAt ops 7
    if (s.ctx c).enrolled then .refuse .state s
    else if s.table.floorValid = false then .refuse .state s
    else if s.table.onFloor p = false then .refuse .badValue s
    else if 127 < tag.toNat then .refuse .badValue s
    else if s.freelyEntered (s.lookup p) = false then .refuse .noRoom s
    else .ok (grantClaim (s.lookup p) (setCtx c (.enrolledAt p (s.lookup p) tag (byteAt ops 8).toNat) s))

/-- WITHDRAW_CARRIAGE (R60). -/
def reqWithdraw (ops : List Byte) (s : State) : Answer :=
  match carriageOf (byteAt ops 0) with
  | none => .refuse .badIndex s
  | some c =>
    let x := s.ctx c
    if x.state = .parked && !x.verdictOwed then .ok (setCtx c .unenrolled (releaseClaim x.zone s))
    else .refuse .busy s

/-- The zones a carriage claims, in increasing index order: its current zone, and the target of an in-flight entry move
(R61, R104). -/
def Context.claimedZones (x : Context) : List Zone :=
  match x.inFlight with
  | some r => if r.entry then (if r.targetZone < x.zone then [r.targetZone, x.zone] else [x.zone, r.targetZone]) else [x.zone]
  | none => [x.zone]

/-- The context a RELEASE_CARRIAGE writes (R62). -/
def Context.releasedAt (x : Context) (p : Point) (z : Zone) : Context :=
  { x with position := p, zone := z, stack := [], clearance := 3, inFlight := none, faultCause := none, reported := none,
           state := .parked }

/-- RELEASE_CARRIAGE (R61, R62): the releases, the grant, the context, then the offers in increasing index order. -/
def reqRelease (ops : List Byte) (s : State) : Answer :=
  match carriageOf (byteAt ops 0) with
  | none => .refuse .badIndex s
  | some c =>
    let p := pointAt ops 1
    let x := s.ctx c
    let z := s.lookup p
    if x.state ≠ .faulted then .refuse .state s
    else if s.table.onFloor p = false then .refuse .badValue s
    else if !(x.claimedZones.contains z || s.freelyEntered z) then .refuse .noRoom s
    else
      let s := x.claimedZones.foldl (fun s z => dropClaim z s) s
      let s := setCtx c (x.releasedAt p z) (grantClaim z s)
      .ok (x.claimedZones.foldl (fun s z => offer z s) s)

/-! ### Reading -/

/-- The state byte (R63). -/
def CarriageState.code : CarriageState → Byte
  | .unenrolled => 0x00
  | .parked => 0x01
  | .moving => 0x02
  | .held => 0x03
  | .faulted => 0x04

/-- A stack record as two bytes (R63). -/
def StackRecord.bytes (r : StackRecord) : List Byte := [byteOf r.saved.val, byteOf r.portal.val]

/-- The portal stack in eight bytes, bottom record first, empty places 00h 00h (R63). -/
def stackBytes (stack : List StackRecord) : List Byte :=
  ((stack.reverse.flatMap StackRecord.bytes) ++ List.replicate 8 0x00).take 8

/-- The fault cause byte (R63). -/
def faultByte : Option FaultCause → Byte
  | none => 0x00
  | some .timeout => 0x01
  | some .stray => 0x02

/-- Part 0 of a context, 31 bytes (R63). -/
def Context.part0 (x : Context) : List Byte :=
  [x.state.code] ++ pointBytes x.position ++ [byteOf x.zone.val, byteOf x.clearance.val, byteOf x.stack.length] ++
  stackBytes x.stack ++ [x.scale, byteOf x.turn.val] ++ pointBytes x.offset ++
  [x.tag.setWidth 8, byteOf x.moveLimit, byteOfBool x.verdictOwed,
   (match x.holdRef with | some e => byteOf e.val | none => 0xFF), faultByte x.faultCause]

/-- The in-flight record in part 1, 20 bytes; an absent record reads 00h throughout (R64). -/
def inFlightBytes : Option InFlight → List Byte
  | none => List.replicate 20 0x00
  | some r =>
    [0x01, byteOf r.source.val, r.sequence, byteOf r.level.val] ++ pointBytes r.target ++
    [byteOf r.targetZone.val, byteOf r.originZone.val, byteOfBool r.entry, byteOf r.pops] ++
    (match r.push with | some p => 0x01 :: p.bytes | none => [0x00, 0x00, 0x00]) ++
    (match r.deadline with | some n => [0x01, byteOf n] | none => [0x00, 0x00]) ++ [byteOfBool r.sent]

/-- Part 1 of a context, 27 bytes (R64). -/
def Context.part1 (x : Context) : List Byte :=
  inFlightBytes x.inFlight ++ (match x.reported with | some p => 0x01 :: pointBytes p | none => List.replicate 7 0x00)

/-- READ_CARRIAGE (R63, R64). -/
def reqReadCarriage (ops : List Byte) (s : State) : Answer :=
  match carriageOf (byteAt ops 0) with
  | none => .refuse .badIndex s
  | some c =>
    if byteAt ops 1 = 0x00 then .read (s.ctx c).part0 s
    else if byteAt ops 1 = 0x01 then .read (s.ctx c).part1 s
    else .refuse .badValue s

/-- The enrolled carriages that carry a tag, in increasing order (R65). -/
def State.tagged (s : State) (tag : BitVec 7) : List Carriage :=
  (List.finRange 32).filter fun c => (s.ctx c).enrolled && (s.ctx c).tag = tag

/-- FIND_TAG (R65). -/
def reqFindTag (ops : List Byte) (s : State) : Answer :=
  if 127 < (byteAt ops 0).toNat then .refuse .badValue s
  else
    let found := s.tagged ((byteAt ops 0).setWidth 7)
    .read (byteOf found.length :: found.map (fun c => byteOf c.val)) s

/-- An entry of a wait list as READ_WAITLIST gives it: the carriage, with 80h when clipped, and hold remaining (R122). -/
def waitBytes (s : State) (e : Fin 16) : List Byte :=
  match s.occ.pool[e] with
  | some h => [byteOf (h.carriage.val + (if h.clipped then 0x80 else 0)), byteOf h.remaining]
  | none => []

/-- READ_WAITLIST (R122). -/
def reqReadWaitlist (ops : List Byte) (s : State) : Answer :=
  match zoneIndexOf (byteAt ops 0) with
  | none => .refuse .badIndex s
  | some z =>
    .read (byteOf s.occ.waits[z].length :: byteOfBool s.occ.recheck[z] :: s.occ.waits[z].flatMap (waitBytes s)) s

/-- The recheck-pending mark of a zone; the floor zone has none (R112, R123). -/
def State.recheckOf (s : State) (z : Zone) : Bool := if h : z.val < 64 then s.occ.recheck[z.val] else false

/-- READ_OCCUPANCY (R123). -/
def reqReadOccupancy (ops : List Byte) (s : State) : Answer :=
  match zoneOf (byteAt ops 0) with
  | none => .refuse .badIndex s
  | some z =>
    .read (byteOf (s.claimCount z) :: byteOf (s.waitList z).length :: byteOfBool (s.recheckOf z) ::
      (s.claimants z).map (fun c => byteOf c.val)) s

end Sys2Proof.Machine
end

