-- ==== Sys2Proof/Machine/Clock.lean ====
section
/-! DEFINITION. The time unit: time base (R125, R126), calendar (R128), windows (R134, R135), cycle timers (R139, R140), and
what the ticks bring to the other blocks: move deadlines (R68, R69), hold deadlines (R113), STOPn debounce (R149) and alert
pulses (R156). -/

namespace Sys2Proof.Machine

/-! ### The calendar -/

/-- Years advance from 99 to 00 (R128 step 6). -/
def nextYear (c : Calendar) : Calendar :=
  { c with year := if bcdValue c.year = 99 then 0x00 else toBcd (bcdValue c.year + 1) }

/-- Months advance, December carrying to the year (R128 step 5). -/
def nextMonth (c : Calendar) : Calendar :=
  if bcdValue c.month = 12 then nextYear { c with month := 0x01 } else { c with month := toBcd (bcdValue c.month + 1) }

/-- The next weekday, Saturday (40h) to Sunday (01h) (R128 step 4). -/
def nextWeekday (b : Byte) : Byte := if b = 0x40 then 0x01 else b <<< 1

/-- Weekday and day advance together, the last day of the month carrying to the month (R128 step 4). -/
def nextDay (c : Calendar) : Calendar :=
  let c := { c with weekday := nextWeekday c.weekday }
  if bcdValue c.day = monthLength (bcdValue c.month) (bcdValue c.year) then nextMonth { c with day := 0x01 }
  else { c with day := toBcd (bcdValue c.day + 1) }

/-- Hours advance, 23 carrying to the day and the weekday (R128 step 3). -/
def nextHour (c : Calendar) : Calendar :=
  if bcdValue c.hours = 23 then nextDay { c with hours := 0x00 } else { c with hours := toBcd (bcdValue c.hours + 1) }

/-- Minutes advance, 59 carrying to the hours (R128 step 2). -/
def nextMinute (c : Calendar) : Calendar :=
  if bcdValue c.minutes = 59 then nextHour { c with minutes := 0x00 }
  else { c with minutes := toBcd (bcdValue c.minutes + 1) }

/-- The calendar advanced by one second (R128). -/
def Calendar.advance (c : Calendar) : Calendar :=
  if bcdValue c.seconds = 59 then nextMinute { c with seconds := 0x00 }
  else { c with seconds := toBcd (bcdValue c.seconds + 1) }

/-- The second update that is due is a minute update: the seconds roll from 59 to 00 (R126). -/
def Calendar.rolls (c : Calendar) : Bool := bcdValue c.seconds = 59

/-! ### Windows -/

/-- A window entry is replaced. -/
def setWindow (w : Fin 16) (e : WindowEntry) (s : State) : State :=
  { s with time := { s.time with windows := s.time.windows.set w.val e } }

/-- A window entry is replaced, with the effects of a change of its state (R135): the WINDOW event for any change, the
withdrawal of the waiters for a change to CLOSED. -/
def changeWindow (w : Fin 16) (e : WindowEntry) (s : State) : State :=
  let old := s.time.windows[w].isOpen
  let s := setWindow w e s
  if e.isOpen = old then s
  else
    let s := raise .window s
    if e.isOpen then s else withdrawForWindow w s

/-- The state a window takes at a minute update: the close pattern decides before the open pattern (R134). -/
def WindowEntry.evaluate (e : WindowEntry) (c : Calendar) : WindowEntry :=
  { e with isOpen := if e.closePattern.matchesTime c then false else if e.openPattern.matchesTime c then true else e.isOpen }

/-- One window entry at a minute update; an entry not in use is passed over (R134). -/
def evalWindow (s : State) (w : Fin 16) : State :=
  let e := s.time.windows[w]
  if e.inUse then changeWindow w (e.evaluate s.time.calendar) s else s

/-- All windows at a minute update, in increasing index order, when TIME_INVALID is clear (R134). -/
def evalWindows (s : State) : State := if s.time.timeInvalid then s else (List.finRange 16).foldl evalWindow s

/-! ### Cycle timers -/

/-- A timer is replaced. -/
def setTimer (n : Fin 4) (t : Timer) (s : State) : State :=
  { s with time := { s.time with timers := s.time.timers.set n.val t } }

/-- The HEARTBEAT an expiry offers: the governor state and halt_cause_any as they stand (R140). -/
def State.heartbeat (s : State) : DFrame := .heartbeat s.gov.state.code (byteOfBool s.gov.haltCauseAny)

/-- The action of an expiring timer (R140): EVENT raises CYCLEn; HEARTBEAT is offered to DQ as an internal insertion. -/
def timerAction (n : Fin 4) (a : TimerAction) (s : State) : State :=
  match a with
  | .event => raise (.cycle n) s
  | .heartbeat => if s.dqOpen then pushDq s.heartbeat s else s

/-- A timer's counter runs from 1 to 0: it is loaded from the preset and the action carried out (R139). A timer that is
disabled, or whose counter is not 1, does not expire. -/
def expireTimer (n : Fin 4) (s : State) : State :=
  let t := s.time.timers[n]
  if t.enabled && t.counter = 1 then timerAction n t.action (setTimer n { t with counter := t.preset } s) else s

/-! ### Deadlines -/

/-- A move deadline expires (R69): MOVING, sent, remaining 1 (R68). The carriage becomes FAULTED, the deadline absent, and
governor control takes TIMEOUT. -/
def expireDeadline (c : Carriage) (s : State) : State :=
  let x := s.ctx c
  match x.inFlight with
  | some r =>
    if x.state = .moving && r.sent && r.deadline = some 1 then
      takeCause .timeout (setCtx c
        { x with state := .faulted, faultCause := some .timeout, reported := none, inFlight := some { r with deadline := none } } s)
    else s
  | none => s

/-- A hold deadline runs out (R113): an entry in use whose hold remaining is 1. -/
def expireHold (e : Fin 16) (s : State) : State :=
  match s.occ.pool[e] with
  | some h => if h.remaining = 1 then endHold .expired .none e s else s
  | none => s

/-- A present deadline of a MOVING carriage above 1 is decreased by 1 (R68). -/
def Context.countDeadline (x : Context) : Context :=
  if x.state = .moving then
    { x with inFlight := x.inFlight.map fun r =>
        { r with deadline := r.deadline.map fun n => if 1 < n then n - 1 else n } }
  else x

/-- A hold remaining above 1 is decreased by 1 (R113). -/
def HoldEntry.count (h : HoldEntry) : HoldEntry := if 1 < h.remaining then { h with remaining := h.remaining - 1 } else h

/-! ### Ticks -/

/-- Which ticks come at one moment (R125, R126). -/
structure Ticks where
  base : Bool
  ten : Bool
  hundred : Bool
  second : Bool
  minute : Bool
deriving DecidableEq, Repr

/-- No tick. -/
def Ticks.none : Ticks := { base := false, ten := false, hundred := false, second := false, minute := false }

/-- The timer source counts at these ticks (R125, R126, R139). -/
def Ticks.counts (t : Ticks) : TimerSource → Bool
  | .ms1 => t.base
  | .ms10 => t.ten
  | .s1 => t.second
  | .min1 => t.minute

/-- An enabled timer of a ticked source whose counter is above 1 counts down by 1 (R139); one at 1 expires as an event. -/
def Timer.count (t : Timer) (k : Ticks) : Timer :=
  if t.enabled && k.counts t.source && 1 < t.counter.toNat then { t with counter := t.counter - 1 } else t

/-- An effect of a tick whose place among the other effects of that tick the manual leaves open (R113, R125, R139, R156). -/
inductive TickEvent where
  | pulses
  | stop
  | timer (n : Fin 4)
  | deadline (c : Carriage)
  | hold (e : Fin 16)
  | windows
deriving DecidableEq, Repr

/-- What such an effect does. -/
def TickEvent.take (s : State) : TickEvent → State
  | .pulses => { s with gov := s.gov.pulseTick }
  | .stop => takeStop s
  | .timer n => expireTimer n s
  | .deadline c => expireDeadline c s
  | .hold e => expireHold e s
  | .windows => evalWindows s

/-- The timer expiries a tick brings (R139). -/
def State.timerEvents (s : State) (t : Ticks) : List TickEvent :=
  ((List.finRange 4).filter fun n =>
    s.time.timers[n].enabled && t.counts s.time.timers[n].source && s.time.timers[n].counter = 1).map TickEvent.timer

/-- The window evaluation a tick brings (R134). -/
def State.windowEvents (s : State) (t : Ticks) : List TickEvent :=
  if t.minute && !s.time.timeInvalid && s.time.windows.toList.any (·.inUse) then [TickEvent.windows] else []

/-- The pulse decrement of a base tick (R156), listed where it can have an effect: a pulse runs before the tick, or an event
of the tick may begin one. A decrement that is listed stands in any order beside that event, so a pulse the event begins
stands at 7 or at 8 after the tick, as R156 and R125 leave open (a free value, log 7). -/
def State.pulseEvents (s : State) (t : Ticks) : List TickEvent :=
  if t.base && (s.gov.pulses.toList.any (0 < ·) || !(s.timerEvents t ++ s.windowEvents t).isEmpty) then [TickEvent.pulses] else []

/-- The move-deadline expiries a tick brings (R68, R69). -/
def State.deadlineEvents (s : State) (t : Ticks) : List TickEvent :=
  if t.hundred then
    ((List.finRange 32).filter fun c =>
      (s.ctx c).state = .moving && (s.ctx c).inFlight.any (fun r => r.sent && r.deadline = some 1)).map TickEvent.deadline
  else []

/-- The effects a tick brings, other than hold expiries; `assertion` says that it brings the STOPn assertion. They are taken in
any order (R125, R139, R140, R156), the pulse decrement among them (log 7). -/
def State.looseEvents (s : State) (t : Ticks) (assertion : Bool) : List TickEvent :=
  s.pulseEvents t ++ (if assertion then [TickEvent.stop] else []) ++ s.timerEvents t ++ s.deadlineEvents t ++ s.windowEvents t

/-- The hold expiries a tick brings, in increasing index order (R113). -/
def State.holdEvents (s : State) (t : Ticks) : List TickEvent :=
  if t.hundred then
    ((List.finRange 16).filter fun e => (s.occ.pool[e]).any (fun h => h.remaining = 1)).map TickEvent.hold
  else []

/-- A list in an order drawn with the free value (log 7): each draw picks the next of those left; a single one needs no
draw. `fuel` bounds the length. -/
def shuffle (n : Nat) : Nat → Nat → List TickEvent → List TickEvent
  | _, _, [] => []
  | _, _, [a] => [a]
  | 0, _, l => l
  | fuel + 1, draw, a :: b :: l =>
    let k := Config.tickChoice n draw % (l.length + 2)
    (a :: b :: l).getD k a :: shuffle n fuel (draw + 1) ((a :: b :: l).eraseIdx k)

/-- Two lists merged, each in its own order, the places drawn with the free value (log 7). `fuel` bounds the lengths. -/
def riffle (n : Nat) : Nat → Nat → List TickEvent → List TickEvent → List TickEvent
  | _, _, [], bs => bs
  | _, _, as, [] => as
  | 0, _, as, bs => as ++ bs
  | fuel + 1, draw, a :: as, b :: bs =>
    if Config.tickChoice n draw % 2 = 0 then a :: riffle n fuel (draw + 1) as (b :: bs)
    else b :: riffle n fuel (draw + 1) (a :: as) bs

/-- The effects of a tick in the order in which they are taken: hold expiries keep index order (R113), the rest are in any
order (R125, R156). -/
def State.orderedEvents (s : State) (t : Ticks) (assertion : Bool) : List TickEvent :=
  let loose := s.looseEvents t assertion
  let holds := s.holdEvents t
  riffle s.freeCount (loose.length + holds.length) loose.length (shuffle s.freeCount loose.length 0 loose) holds

/-- The counting of a tick, which no order touches: calendar, timers, deadlines and holds above 1, and the model's count of
ticks. -/
def countTicks (t : Ticks) (s : State) : State :=
  { s with
    freeCount := s.freeCount + 1
    time := { s.time with
      calendar := if t.second then s.time.calendar.advance else s.time.calendar
      timers := s.time.timers.map (·.count t) }
    carriages := if t.hundred then s.carriages.map Context.countDeadline else s.carriages
    occ := if t.hundred then { s.occ with pool := s.occ.pool.map (Option.map HoldEntry.count) } else s.occ }

/-- The ticks that come at one moment are taken (R125, R126). -/
def takeTicks (t : Ticks) (assertion : Bool) (s : State) : State :=
  (s.orderedEvents t assertion).foldl TickEvent.take (countTicks t s)

/-! ### The base tick -/

/-- The power-on reset completes at a base tick: GO is sent on both ports (R159, R22). A line reset still in force goes on
holding the part. -/
def completePowerOn (s : State) : State :=
  if s.gov.powerOnHold then
    { s with gov := { s.gov with powerOnHold := false }, wireU := s.wireU ++ [.go], wireD := s.wireD ++ [.go] }
  else s

/-- One sample of the raw STOPn level (R149): the debounced level and count after it. -/
def debounce (raw level : Bool) (count : Nat) : Bool × Nat :=
  if raw = level then (level, 0) else if 4 ≤ count + 1 then (raw, 0) else (level, count + 1)

/-- The ticks the base tick brings in a state (R125, R126). -/
def State.baseTicks (s : State) : Ticks :=
  let divider := (s.time.divider + 1) % 100
  let second := 999 ≤ s.time.subSecond
  { base := true, ten := divider % 10 = 0, hundred := divider = 0, second, minute := second && s.time.calendar.rolls }

/-- The base tick's own counts: tick divider, sub-second count, debounced STOPn level and count (R125, R126, R149). -/
def countBase (raw : Bool) (s : State) : State :=
  let d := debounce raw s.gov.stopn s.gov.stopnCount
  { s with
    time := { s.time with
      divider := (s.time.divider + 1) % 100
      subSecond := if 999 ≤ s.time.subSecond then 0 else s.time.subSecond + 1 }
    gov := { s.gov with stopn := d.1, stopnCount := d.2 } }

/-- The sample makes the debounced level change from RELEASED to ASSERTED (R149). -/
def State.assertsStop (s : State) (raw : Bool) : Bool := !s.gov.stopn && (debounce raw s.gov.stopn s.gov.stopnCount).1

/-- The base tick, with all it brings (R125, R126, R149, R156). -/
def takeBaseTick (raw : Bool) (s : State) : State :=
  takeTicks s.baseTicks (s.assertsStop raw) (countBase raw (completePowerOn s))

/-! ### The coarser ticks and the STOPn changes as commands of their own (log 8, log 10)

Before a power-on reset has completed the manual has no tick (R159: it completes at the first base tick). That such a command
taken there acts all the same, and leaves the hold in force, is the model's choice (log 13). -/

/-- The 100 ms tick: the divider has returned to 0, and it is also a 10 ms tick (R125). Before a power-on reset has completed it
sets the divider alone, and the hold stays (log 13). -/
def takeTick100 (s : State) : State :=
  takeTicks { Ticks.none with ten := true, hundred := true } false { s with time := { s.time with divider := 0 } }

/-- The second update: the sub-second count has returned to 0 (R126); it is a minute update when the seconds roll. Before a
power-on reset has completed it advances the calendar all the same, and the hold stays (log 13). -/
def takeSecond (s : State) : State :=
  takeTicks { Ticks.none with second := true, minute := s.time.calendar.rolls } false
    { s with time := { s.time with subSecond := 0 } }

/-- The minute update: the second update that rolls the seconds from 59 to 00 (R126, R128). The seconds before it that the
sender has not sent are passed over (log 8). Before a power-on reset has completed it advances the calendar all the same, and the
hold stays (log 13). -/
def takeMinute (s : State) : State :=
  takeTicks { Ticks.none with second := true, minute := true } false
    { s with time := { s.time with subSecond := 0, calendar := { s.time.calendar with seconds := 0x59 } } }

/-- A pulse count that stands at 1 reaches 0 (R156). -/
def endPulse (p : Fin 5) (s : State) : State :=
  if s.gov.pulses[p] = 1 then { s with gov := { s.gov with pulses := s.gov.pulses.set p.val 0 } } else s

/-- The debounced STOPn level changes to ASSERTED and is taken as a halt cause (R149, R150); one already ASSERTED does not
change. Before a power-on reset has completed the level changes all the same, without effect in STANDBY, and the hold stays
(log 13). -/
def assertStopn (s : State) : State :=
  if s.gov.stopn then s else takeStop { s with gov := { s.gov with stopn := true, stopnCount := 0 } }

/-- The debounced STOPn level changes to RELEASED, which causes nothing else (R149), before a power-on reset has completed too
(log 13). -/
def releaseStopn (s : State) : State :=
  if s.gov.stopn then { s with gov := { s.gov with stopn := false, stopnCount := 0 } } else s

end Sys2Proof.Machine
end

