-- ==== Sys2Proof/Machine/Tables.lean ====
section
/-! DEFINITION. The requests on the tables: floor (R24, R25), zones (R46 to R52), sources (R82, R83), calendar (R130, R131),
windows (R136 to R138) and cycle timers (R141, R142). -/

namespace Sys2Proof.Machine

/-! ### Floor -/

/-- Every enrolled position and every in-flight target lies in the box (R24 step 4). -/
def State.floorFits (s : State) (b : Box) : Bool :=
  s.carriages.toList.all fun x =>
    (!x.enrolled || b.holds x.position) && (match x.inFlight with | some r => b.holds r.target | none => true)

/-- SET_FLOOR (R24). -/
def reqSetFloor (ops : List Byte) (s : State) : Answer :=
  let b := boxAt ops 0
  if s.gov.lock then .refuse .locked s
  else if s.gov.state ≠ .standby then .refuse .state s
  else if b.ordered = false then .refuse .badValue s
  else if s.floorFits b = false then .refuse .inUse s
  else .ok { s with table := { s.table with floorBox := b, floorValid := true } }

/-- READ_FLOOR (R25). -/
def reqReadFloor (_ops : List Byte) (s : State) : Answer :=
  .read (byteOfBool s.table.floorValid :: boxBytes s.table.floorBox) s

/-! ### Zones -/

/-- A planned push names the portal (R49). -/
def pushNames (i : ZoneIndex) (p : Option StackRecord) : Bool := p.any (fun r => r.portal = i)

/-- The portal is named by a stack record, an in-flight planned push or a held planned push (R49 test 2). -/
def State.portalInUse (s : State) (i : ZoneIndex) : Bool :=
  s.carriages.toList.any (fun x =>
    x.stack.any (fun r => r.portal = i) || (match x.inFlight with | some r => pushNames i r.push | none => false)) ||
  s.occ.pool.toList.any (fun e => match e with | some h => pushNames i h.push | none => false)

/-- The descriptor being replaced is in use (R49). -/
def State.descriptorInUse (s : State) (i : ZoneIndex) : Bool :=
  0 < s.claimCount i.castSucc || !s.occ.waits[i].isEmpty ||
  (match s.table.descriptors[i] with | .portal .. => s.portalInUse i | _ => false)

/-- Under the proposed table every recorded point still looks up to its recorded zone (R50 tests 3 to 5). -/
def State.lookupsStand (s : State) (ds : Vector Descriptor 64) : Bool :=
  s.carriages.toList.all (fun x =>
    (!x.enrolled || lookupIn ds x.position = x.zone) &&
    (match x.inFlight with | some r => lookupIn ds r.target = r.targetZone | none => true)) &&
  s.occ.pool.toList.all (fun e => match e with | some h => lookupIn ds h.target = h.zone.castSucc | none => true)

/-- WRITE_ZONE (R47 to R51). -/
def reqWriteZone (ops : List Byte) (s : State) : Answer :=
  if s.gov.lock then .refuse .locked s
  else
    match zoneIndexOf (byteAt ops 0) with
    | none => .refuse .badIndex s
    | some i =>
      match descriptorOf ops with
      | none => .refuse .badValue s
      | some d =>
        let proposed := s.table.descriptors.set i.val d
        if s.descriptorInUse i || !s.lookupsStand proposed then .refuse .inUse s
        else .ok { s with table := { s.table with descriptors := proposed } }

/-- READ_ZONE (R52). -/
def reqReadZone (ops : List Byte) (s : State) : Answer :=
  match zoneOf (byteAt ops 0) with
  | none => .refuse .badIndex s
  | some z => .read (byteOf z.val :: descriptorBytes (s.descriptor z)) s

/-! ### Sources -/

/-- WRITE_SOURCE (R82). -/
def reqWriteSource (ops : List Byte) (s : State) : Answer :=
  if s.gov.lock then .refuse .locked s
  else
    match sourceOf (byteAt ops 0) with
    | none => .refuse .badIndex s
    | some i =>
      match boolOf (byteAt ops 1), levelOf (byteAt ops 2), boolOf (byteAt ops 3) with
      | some enabled, some ceiling, some mayManage =>
        .ok { s with sources := s.sources.set i.val { enabled, ceiling, mayManage } }
      | _, _, _ => .refuse .badValue s

/-- READ_SOURCE (R83). -/
def reqReadSource (ops : List Byte) (s : State) : Answer :=
  match sourceOf (byteAt ops 0) with
  | none => .refuse .badIndex s
  | some i =>
    let r := s.sources[i]
    .read [byteOfBool r.enabled, byteOf r.ceiling.val, byteOfBool r.mayManage] s

/-! ### Calendar -/

/-- SET_TIME (R130). -/
def reqSetTime (ops : List Byte) (s : State) : Answer :=
  let c := calendarOf ops
  if c.valid then .ok { s with time := { s.time with calendar := c, subSecond := 0, timeInvalid := false } }
  else .refuse .badValue s

/-- READ_TIME (R131). -/
def reqReadTime (_ops : List Byte) (s : State) : Answer :=
  .read (calendarBytes s.time.calendar ++ [byteOfBool s.time.timeInvalid]) s

/-! ### Windows -/

/-- The entry a WRITE_WINDOW with in-use 01h writes; `none` where R136 step 4 answers BAD_VALUE. -/
def windowEntryOf (ops : List Byte) (timeInvalid : Bool) : Option WindowEntry :=
  let openPattern := patternAt ops 2
  let closePattern := patternAt ops 7
  match boolOf (byteAt ops 12) with
  | none => none
  | some isOpen =>
    if openPattern.valid && closePattern.valid && openPattern ≠ closePattern && !(isOpen && timeInvalid) then
      some { inUse := true, openPattern, closePattern, isOpen }
    else none

/-- WRITE_WINDOW (R136, R137). -/
def reqWriteWindow (ops : List Byte) (s : State) : Answer :=
  if s.gov.lock then .refuse .locked s
  else
    match windowOf (byteAt ops 0) with
    | none => .refuse .badIndex s
    | some w =>
      match boolOf (byteAt ops 1) with
      | none => .refuse .badValue s
      | some false => .ok (changeWindow w .unused s)
      | some true =>
        match windowEntryOf ops s.time.timeInvalid with
        | none => .refuse .badValue s
        | some e => .ok (changeWindow w e s)

/-- READ_WINDOW (R138). -/
def reqReadWindow (ops : List Byte) (s : State) : Answer :=
  match windowOf (byteAt ops 0) with
  | none => .refuse .badIndex s
  | some w =>
    let e := s.time.windows[w]
    .read (byteOfBool e.inUse :: (patternBytes e.openPattern ++ patternBytes e.closePattern ++ [byteOfBool e.isOpen])) s

/-! ### Cycle timers -/

/-- The counter a WRITE_TIMER leaves: loaded from the new preset when a disabled timer is enabled, else as it was (R141). -/
def writtenCounter (t : Timer) (enabled : Bool) (preset : BitVec 16) : BitVec 16 :=
  if !t.enabled && enabled then preset else t.counter

/-- WRITE_TIMER (R141). -/
def reqWriteTimer (ops : List Byte) (s : State) : Answer :=
  if s.gov.lock then .refuse .locked s
  else
    match timerOf (byteAt ops 0) with
    | none => .refuse .badIndex s
    | some n =>
      match boolOf (byteAt ops 1), timerSourceOf (byteAt ops 2), timerActionOf (byteAt ops 5) with
      | some enabled, some source, some action =>
        let preset := wordAt ops 3
        if preset = 0 then .refuse .badValue s
        else .ok (setTimer n { enabled, source, preset, action, counter := writtenCounter s.time.timers[n] enabled preset } s)
      | _, _, _ => .refuse .badValue s

/-- READ_TIMER (R142). -/
def reqReadTimer (ops : List Byte) (s : State) : Answer :=
  match timerOf (byteAt ops 0) with
  | none => .refuse .badIndex s
  | some n =>
    let t := s.time.timers[n]
    .read ([byteOfBool t.enabled, t.source.code] ++ wordBytes t.preset ++ [t.action.code] ++ wordBytes t.counter) s

end Sys2Proof.Machine
end

