-- ==== Sys2Proof/Machine/Management.lean ====
section
/-! DEFINITION. The management agent: the request catalogue (R168), its checks (R163), the response (R164) and the acceptance
of RESET (R171). -/

namespace Sys2Proof.Machine

/-- The requests of the catalogue (R168). -/
inductive Request where
  | readStatus
  | clearFlags
  | setAlert
  | readAlert
  | readCause
  | start
  | stop
  | resume
  | end_
  | setFloor
  | readFloor
  | writeZone
  | readZone
  | writeSource
  | readSource
  | enroll
  | withdrawCarriage
  | releaseCarriage
  | readCarriage
  | findTag
  | readWaitlist
  | readOccupancy
  | setTime
  | readTime
  | writeWindow
  | readWindow
  | writeTimer
  | readTimer
  | lock
  | reset
deriving DecidableEq, Repr

/-- The request code (R168). -/
def Request.code : Request → Byte
  | .readStatus => 0x01
  | .clearFlags => 0x02
  | .setAlert => 0x03
  | .readAlert => 0x04
  | .readCause => 0x05
  | .start => 0x10
  | .stop => 0x11
  | .resume => 0x12
  | .end_ => 0x13
  | .setFloor => 0x20
  | .readFloor => 0x21
  | .writeZone => 0x22
  | .readZone => 0x23
  | .writeSource => 0x28
  | .readSource => 0x29
  | .enroll => 0x30
  | .withdrawCarriage => 0x31
  | .releaseCarriage => 0x32
  | .readCarriage => 0x33
  | .findTag => 0x34
  | .readWaitlist => 0x38
  | .readOccupancy => 0x39
  | .setTime => 0x40
  | .readTime => 0x41
  | .writeWindow => 0x42
  | .readWindow => 0x43
  | .writeTimer => 0x44
  | .readTimer => 0x45
  | .lock => 0x50
  | .reset => 0x51

/-- The whole catalogue (R168). -/
def Request.all : List Request :=
  [.readStatus, .clearFlags, .setAlert, .readAlert, .readCause, .start, .stop, .resume, .end_, .setFloor, .readFloor,
   .writeZone, .readZone, .writeSource, .readSource, .enroll, .withdrawCarriage, .releaseCarriage, .readCarriage, .findTag,
   .readWaitlist, .readOccupancy, .setTime, .readTime, .writeWindow, .readWindow, .writeTimer, .readTimer, .lock, .reset]

/-- The request of a code, if the catalogue has one (R163 check 2). -/
def Request.ofCode (code : Byte) : Option Request := Request.all.find? (fun r => r.code = code)

/-- The fixed operand length (R168). -/
def Request.operandLength : Request → Nat
  | .readStatus | .readAlert | .readCause | .start | .stop | .resume | .end_ | .readFloor | .readTime | .lock | .reset => 0
  | .readZone | .readSource | .withdrawCarriage | .findTag | .readWaitlist | .readOccupancy | .readWindow | .readTimer => 1
  | .clearFlags | .readCarriage => 2
  | .setAlert => 3
  | .writeSource => 4
  | .writeTimer => 6
  | .releaseCarriage | .setTime => 7
  | .enroll => 9
  | .setFloor => 12
  | .writeWindow => 13
  | .writeZone => 21

/-- The owning block judges the request (R163, R168). -/
def Request.run : Request → List Byte → State → Answer
  | .readStatus => reqReadStatus
  | .clearFlags => reqClearFlags
  | .setAlert => reqSetAlert
  | .readAlert => reqReadAlert
  | .readCause => reqReadCause
  | .start => reqStart
  | .stop => reqStop
  | .resume => reqResume
  | .end_ => reqEnd
  | .setFloor => reqSetFloor
  | .readFloor => reqReadFloor
  | .writeZone => reqWriteZone
  | .readZone => reqReadZone
  | .writeSource => reqWriteSource
  | .readSource => reqReadSource
  | .enroll => reqEnroll
  | .withdrawCarriage => reqWithdraw
  | .releaseCarriage => reqRelease
  | .readCarriage => reqReadCarriage
  | .findTag => reqFindTag
  | .readWaitlist => reqReadWaitlist
  | .readOccupancy => reqReadOccupancy
  | .setTime => reqSetTime
  | .readTime => reqReadTime
  | .writeWindow => reqWriteWindow
  | .readWindow => reqReadWindow
  | .writeTimer => reqWriteTimer
  | .readTimer => reqReadTimer
  | .lock => reqLock
  | .reset => reqReset

/-- The source may manage the part: enabled, may_manage, ceiling 0 (R163 check 1). -/
def SourceRecord.manages (r : SourceRecord) : Bool := r.enabled && r.mayManage && r.ceiling = 0

/-- The MGMT_RSP enters UQ: header copied with level 0 (R6, R164). -/
def respond (h : Header) (code rid : Byte) (a : Answer) (answersReset : Bool) : State :=
  pushUqMarked (.mgmtRsp { h with level := 0 } code rid a.status a.data) answersReset a.state

/-- The acceptance of a RESET, after its response was placed: the pending mark, then the pause states (R171). -/
def acceptReset (s : State) : State := evalPauses { s with gov := { s.gov with softPending := true } }

/-- A MGMT_REQ that has arrived (R163, R164, R166). -/
def takeMgmtReq (h : Header) (code rid : Byte) (ops : List Byte) (s : State) : State :=
  if s.sources[h.source].manages = false then respond h code rid (.refuse .denied s) false
  else
    match Request.ofCode code with
    | none => respond h code rid (.refuse .unknown s) false
    | some r =>
      if ops.length ≠ r.operandLength then respond h code rid (.refuse .badValue s) false
      else if r = .reset then acceptReset (respond h code rid (r.run ops s) true)
      else respond h code rid (r.run ops s) false

end Sys2Proof.Machine
end

