-- ==== Sys2Proof/Machine/Reception.lean ====
section
/-! DEFINITION. Reception: start symbols and the end of a frame (R7), the room check (R8), the handing on (R9), and the PAUSE
and GO symbols received (R11). -/

namespace Sys2Proof.Machine

/-- A port's receiver. -/
def State.receiver (s : State) (p : Port) : Receiver :=
  match p with
  | .u => s.link.rxU
  | .d => s.link.rxD

/-- A port's receiver is replaced. -/
def setReceiver (p : Port) (r : Receiver) (s : State) : State :=
  match p with
  | .u => { s with link := { s.link with rxU := r } }
  | .d => { s with link := { s.link with rxD := r } }

/-- A reset holds every block at its reset values: a power-on reset, a line reset, or both (R159). -/
def State.inReset (s : State) : Bool := s.gov.powerOnHold || s.gov.lineHold

/-- A frame that has arrived is handed to the block that owns its kind (R9). -/
def handOn (p : Port) (f : InFrame) (s : State) : State :=
  match f with
  | .moveAbs h x y speed via => takeMoveAbs h x y speed via s
  | .moveRel h dx dy speed via => takeMoveRel h dx dy speed via s
  | .setup h enables scale turn offset tag => takeSetup h enables scale turn offset tag s
  | .stopCarriage h => takeStopCarriage h s
  | .transit h payload =>
    match p with
    | .u => takeTransitU h payload s
    | .d => takeTransitD h payload s
  | .mgmtReq h request rid ops => takeMgmtReq h request rid ops s
  | .done h at_ stopped => takeDone h at_ stopped s
  | .contact h at_ => takeContact h at_ s

/-- Every place a frame received on the port needs is free: one of DQ and one of UQ for port U, one of UQ for port D (R8). -/
def State.roomFor (s : State) (p : Port) : Bool :=
  match p with
  | .u => 0 < s.freeDq && 0 < s.freeUq
  | .d => 0 < s.freeUq

/-- The room check of a frame that has passed the receive checks: it arrives, or is an overrun (R8). -/
def admitFrame (p : Port) (f : InFrame) (s : State) : State :=
  if s.roomFor p then handOn p f s else raise .linkerr s

/-- A frame completes reception, as the receive checks found it (`none`: it failed one). The receiver returns to IDLE. While
a reset holds the part or a soft reset is pending the frame is discarded and sets no flag (R9, R159). -/
def completeFrame (p : Port) (f : Option InFrame) (s : State) : State :=
  let s := setReceiver p .idle s
  if s.inReset || s.gov.softPending then s
  else
    match f with
    | none => raise .linkerr s
    | some f => admitFrame p f s

/-- A typed frame completes reception; a payload no frame can hold fails the checks (R2, R7, log 4). -/
def receive (p : Port) (f : InFrame) (s : State) : State :=
  completeFrame p (if f.fits && kindAccepted p f.kind then some f else none) s

/-- An end symbol after `bytes`: the frame in the port's receiver completes and undergoes the receive checks (R7). -/
def receiveBytes (p : Port) (bytes : List Byte) (s : State) : State :=
  let r := (s.receiver p).collect bytes
  completeFrame p (checkFrame p r.buffer r.overlong) s

/-- A start symbol, then the bytes `run` (R7). In IDLE it begins a frame; in RECEIVING it first ends the frame in progress,
which sets LINKERR unless a soft reset is pending (R9). A reset holds the receiver in IDLE (R159, log 14). -/
def startFrame (p : Port) (run : List Byte) (s : State) : State :=
  if s.inReset then s
  else
    let aborted := (s.receiver p).receiving
    let s := setReceiver p (Receiver.started.addBytes run) s
    if aborted && !s.gov.softPending then raise .linkerr s else s

/-- A control symbol received on a port writes that port's peer permit (R11); a reset holds it at PERMITTED (R159, log 14). -/
def setStopped (p : Port) (stopped : Bool) (s : State) : State :=
  if s.inReset then s
  else
    match p with
    | .u => { s with link := { s.link with stoppedU := stopped } }
    | .d => { s with link := { s.link with stoppedD := stopped } }

end Sys2Proof.Machine
end

