-- ==== Sys2Proof/Machine/ArrivalCommands.lean ====
section
/-! DEFINITION. The meanings of the commands that are frames arriving on a port. -/

namespace Sys2Proof.Machine

/-- MOVE_ABS (R33, R84): a frame of port U, checked for room and taken by admission. -/
def execMoveAbs (h : Header) (x y : Coord) (speed : Speed) (via : Byte) (s : State) : Host.Outcome State Fault Refusal :=
  .next (receive .u (.moveAbs h x y speed via) s)

/-- MOVE_REL (R32, R84). -/
def execMoveRel (h : Header) (dx dy : Coord) (speed : Speed) (via : Byte) (s : State) : Host.Outcome State Fault Refusal :=
  .next (receive .u (.moveRel h dx dy speed via) s)

/-- SETUP (R28, R29). -/
def execSetup (h : Header) (enables scale turn : Byte) (offset : Point) (tag : Byte) (s : State) : Host.Outcome State Fault Refusal :=
  .next (receive .u (.setup h enables scale turn offset tag) s)

/-- STOP_CARRIAGE (R101, R116). -/
def execStopCarriage (h : Header) (s : State) : Host.Outcome State Fault Refusal :=
  .next (receive .u (.stopCarriage h) s)

/-- TRANSIT, on either port (R19, R102). -/
def execTransit (p : Port) (h : Header) (payload : List Byte) (s : State) : Host.Outcome State Fault Refusal :=
  .next (receive p (.transit h payload) s)

/-- DONE (R20, R70 to R74). -/
def execDone (h : Header) (at_ : Point) (stopped : Byte) (s : State) : Host.Outcome State Fault Refusal :=
  .next (receive .d (.done h at_ stopped) s)

/-- CONTACT (R21, R75). -/
def execContact (h : Header) (at_ : Point) (s : State) : Host.Outcome State Fault Refusal :=
  .next (receive .d (.contact h at_) s)

/-- MGMT_REQ given by its request code: DENIED or UNKNOWN for a code outside the catalogue (R163); a code of the catalogue is that request (log 19). -/
def execMgmtReq (h : Header) (request rid : Byte) (ops : List Byte) (s : State) : Host.Outcome State Fault Refusal :=
  .next (receive .u (.mgmtReq h request rid ops) s)

end Sys2Proof.Machine
end

