-- ==== Sys2Proof/Machine/Resets.lean ====
section
/-! DEFINITION. The three resets: the value each piece of state takes (R22, R23, R53, R55, R80, R124, R143, R159, R160, R173). -/

namespace Sys2Proof.Machine

/-- GO is sent on both ports at the completion of a reset (R22, R159). -/
def sendGo (s : State) : State := { s with wireU := s.wireU ++ [.go], wireD := s.wireD ++ [.go] }

/-- Power-on reset takes effect: nothing is kept (R159). The part is held until the next base tick (log 13), and while RSTn
is asserted: the level of that line is outside the part, and a power-on leaves it as it is (log 13). What the part has sent,
the waiting commands and the count of ticks are the model's own records and stay. -/
def powerOn (s : State) : State :=
  { State.reset with
    gov := { Governor.reset with powerOnHold := true, lineHold := s.gov.lineHold }
    wireU := s.wireU, wireD := s.wireD, freeCount := s.freeCount, pending := s.pending }

/-- Line reset takes effect: the time base, the calendar, TIME_INVALID and the STOPn debounce are kept, LINE is set beside
the other cause flags, and the part is held while RSTn is asserted; a power-on reset that has not completed holds it still
(R143, R159, R160). -/
def lineReset (s : State) : State :=
  { State.reset with
    time := { TimeUnit.reset with
      divider := s.time.divider, subSecond := s.time.subSecond, calendar := s.time.calendar,
      timeInvalid := s.time.timeInvalid }
    gov := { Governor.reset with
      stopn := s.gov.stopn, stopnCount := s.gov.stopnCount, cause := s.gov.cause ||| 2,
      powerOnHold := s.gov.powerOnHold, lineHold := true }
    wireU := s.wireU, wireD := s.wireD, freeCount := s.freeCount, pending := s.pending }

/-- RSTn is released: the line reset completes, and GO is sent on both ports (R159). Without a line reset in force nothing
completes. A power-on reset that has not completed still holds the part. -/
def lineResetRelease (s : State) : State :=
  if s.gov.lineHold then sendGo { s with gov := { s.gov with lineHold := false } } else s

/-- A cycle timer at a soft reset: an enabled one is loaded from its preset (R143). -/
def Timer.reload (t : Timer) : Timer := if t.enabled then { t with counter := t.preset } else t

/-- Soft reset takes effect and completes: configuration is kept, operational state cleared, SOFT set (R159, R160, R173). -/
def softReset (s : State) : State :=
  sendGo { s with
    link := .reset
    carriages := Vector.replicate 32 .unenrolled
    occ := .reset
    time := { s.time with timers := s.time.timers.map Timer.reload }
    gov := { s.gov with
      state := .standby, flags := 0, pulses := Vector.replicate 5 0, softPending := false, cause := s.gov.cause ||| 4 } }

end Sys2Proof.Machine
end

