-- ==== Sys2Proof/Machine/Transmission.lean ====
section
/-! DEFINITION. The transmitters: beginning and completing a frame on port U (R16) and on port D (R17), with the announcements
of places gained (R15). -/

namespace Sys2Proof.Machine

/-- UQ has gained places: the backlog is fed first, then the pending zones are served (R15, R112). -/
def announceUq (s : State) : State := servePending (feed (evalPauses s))

/-- DQ has gained places: the pending zones are served (R15, R112). -/
def announceDq (s : State) : State := servePending (evalPauses s)

/-- The port U transmitter begins the head of UQ when it is IDLE, PERMITTED and UQ is not empty (R16). -/
def uTxStart (s : State) : State :=
  if !s.link.sendingU && !s.link.stoppedU && !s.link.uq.isEmpty then
    { s with link := { s.link with sendingU := true } }
  else s

/-- The port U transmitter completes the head of UQ (R16): it leaves UQ and the gain is announced; the completion of the
response that answers the RESET makes the soft reset take effect (R173). -/
def uTxComplete (s : State) : State :=
  if s.link.sendingU then
    match s.link.uq with
    | [] => { s with link := { s.link with sendingU := false } }
    | e :: rest =>
      let s := { s with link := { s.link with sendingU := false, uq := rest }, wireU := s.wireU ++ [.frame e.frame.bytes] }
      if e.answersReset && s.gov.softPending then softReset s else announceUq s
  else s

/-- The port D transmitter begins the HALT_ALL of the halt slot, which empties it, or else the head of DQ, when it is IDLE
and PERMITTED (R17). -/
def dTxStart (s : State) : State :=
  if s.link.txD = .idle && !s.link.stoppedD then
    if s.link.haltSlot then { s with link := { s.link with txD := .haltAll, haltSlot := false } }
    else if s.link.dq.isEmpty then s
    else { s with link := { s.link with txD := .frame } }
  else s

/-- A frame of DQ has been sent: a DRIVE_MOVE marks its record (R67). -/
def DFrame.whenSent (f : DFrame) (s : State) : State :=
  match f with
  | .driveMove h _ _ => markSent h s
  | _ => s

/-- The port D transmitter completes its frame (R17): a frame of DQ leaves DQ and the gain is announced. -/
def dTxComplete (s : State) : State :=
  match s.link.txD with
  | .idle => s
  | .haltAll => { s with link := { s.link with txD := .idle }, wireD := s.wireD ++ [.frame haltAllBytes] }
  | .frame =>
    match s.link.dq with
    | [] => { s with link := { s.link with txD := .idle } }
    | f :: rest =>
      announceDq (f.whenSent { s with link := { s.link with txD := .idle, dq := rest }, wireD := s.wireD ++ [.frame f.bytes] })

end Sys2Proof.Machine
end

