-- ==== Sys2Proof/Machine/LinkCommands.lean ====
section
/-! DEFINITION. The meanings of the reception and transmission commands. -/

namespace Sys2Proof.Machine

/-- RECEIVE_CHECK_FAIL: the frame in reception ends with `bytes`; one that fails a check is discarded and sets LINKERR (R7; the part decides by the checks, log 2). -/
def execReceiveCheckFail (p : Port) (bytes : List Byte) (s : State) : Host.Outcome State Fault Refusal :=
  .next (receiveBytes p bytes s)

/-- OVERRUN: the frame in reception ends with `bytes`; one that passes the checks and finds a place taken is discarded and sets LINKERR (R8, log 2). -/
def execOverrun (p : Port) (bytes : List Byte) (s : State) : Host.Outcome State Fault Refusal :=
  .next (receiveBytes p bytes s)

/-- FRAME_ABORTED: a start symbol in RECEIVING (R7). -/
def execFrameAborted (p : Port) (run : List Byte) (s : State) : Host.Outcome State Fault Refusal :=
  .next (startFrame p run s)

/-- SOFT_RESET_PENDING_DISCARD: the frame in reception ends with `bytes`; while a soft reset is pending it is discarded silently (R9, log 2). -/
def execSoftResetPendingDiscard (p : Port) (bytes : List Byte) (s : State) : Host.Outcome State Fault Refusal :=
  .next (receiveBytes p bytes s)

/-- PAUSE_RECEIVED (R11). -/
def execPauseReceived (p : Port) (s : State) : Host.Outcome State Fault Refusal :=
  .next (setStopped p true s)

/-- GO_RECEIVED (R11). -/
def execGoReceived (p : Port) (s : State) : Host.Outcome State Fault Refusal :=
  .next (setStopped p false s)

/-- U_TX_START (R16). -/
def execUTxStart (s : State) : Host.Outcome State Fault Refusal :=
  .next (uTxStart s)

/-- U_TX_COMPLETE (R15, R16, R173). -/
def execUTxComplete (s : State) : Host.Outcome State Fault Refusal :=
  .next (uTxComplete s)

/-- D_TX_START (R17). -/
def execDTxStart (s : State) : Host.Outcome State Fault Refusal :=
  .next (dTxStart s)

/-- D_TX_COMPLETE (R15, R17, R67). -/
def execDTxComplete (s : State) : Host.Outcome State Fault Refusal :=
  .next (dTxComplete s)

/-- START_SYMBOL: a start symbol in IDLE (R7). -/
def execStartSymbol (p : Port) (run : List Byte) (s : State) : Host.Outcome State Fault Refusal :=
  .next (startFrame p run s)

end Sys2Proof.Machine
end

