-- ==== Sys2Proof/Machine/RequestCommands.lean ====
section
/-! DEFINITION. The meanings of the management requests: each is a MGMT_REQ frame of port U with that request's code (R162, R168). -/

namespace Sys2Proof.Machine

/-- READ_STATUS (R167). -/
def execReadStatus (h : Header) (rid : Byte) (ops : List Byte) (s : State) : Host.Outcome State Fault Refusal :=
  .next (receive .u (.mgmtReq h Request.readStatus.code rid ops) s)

/-- CLEAR_FLAGS (R154). -/
def execClearFlags (h : Header) (rid : Byte) (ops : List Byte) (s : State) : Host.Outcome State Fault Refusal :=
  .next (receive .u (.mgmtReq h Request.clearFlags.code rid ops) s)

/-- SET_ALERT (R157). -/
def execSetAlert (h : Header) (rid : Byte) (ops : List Byte) (s : State) : Host.Outcome State Fault Refusal :=
  .next (receive .u (.mgmtReq h Request.setAlert.code rid ops) s)

/-- READ_ALERT (R158). -/
def execReadAlert (h : Header) (rid : Byte) (ops : List Byte) (s : State) : Host.Outcome State Fault Refusal :=
  .next (receive .u (.mgmtReq h Request.readAlert.code rid ops) s)

/-- READ_CAUSE (R161). -/
def execReadCause (h : Header) (rid : Byte) (ops : List Byte) (s : State) : Host.Outcome State Fault Refusal :=
  .next (receive .u (.mgmtReq h Request.readCause.code rid ops) s)

/-- START (R145). -/
def execStartReq (h : Header) (rid : Byte) (ops : List Byte) (s : State) : Host.Outcome State Fault Refusal :=
  .next (receive .u (.mgmtReq h Request.start.code rid ops) s)

/-- STOP (R146). -/
def execStopReq (h : Header) (rid : Byte) (ops : List Byte) (s : State) : Host.Outcome State Fault Refusal :=
  .next (receive .u (.mgmtReq h Request.stop.code rid ops) s)

/-- RESUME (R147). -/
def execResumeReq (h : Header) (rid : Byte) (ops : List Byte) (s : State) : Host.Outcome State Fault Refusal :=
  .next (receive .u (.mgmtReq h Request.resume.code rid ops) s)

/-- END (R148). -/
def execEndReq (h : Header) (rid : Byte) (ops : List Byte) (s : State) : Host.Outcome State Fault Refusal :=
  .next (receive .u (.mgmtReq h Request.end_.code rid ops) s)

/-- SET_FLOOR (R24). -/
def execSetFloor (h : Header) (rid : Byte) (ops : List Byte) (s : State) : Host.Outcome State Fault Refusal :=
  .next (receive .u (.mgmtReq h Request.setFloor.code rid ops) s)

/-- READ_FLOOR (R25). -/
def execReadFloor (h : Header) (rid : Byte) (ops : List Byte) (s : State) : Host.Outcome State Fault Refusal :=
  .next (receive .u (.mgmtReq h Request.readFloor.code rid ops) s)

/-- WRITE_ZONE (R47 to R51). -/
def execWriteZone (h : Header) (rid : Byte) (ops : List Byte) (s : State) : Host.Outcome State Fault Refusal :=
  .next (receive .u (.mgmtReq h Request.writeZone.code rid ops) s)

/-- READ_ZONE (R52). -/
def execReadZone (h : Header) (rid : Byte) (ops : List Byte) (s : State) : Host.Outcome State Fault Refusal :=
  .next (receive .u (.mgmtReq h Request.readZone.code rid ops) s)

/-- WRITE_SOURCE (R82). -/
def execWriteSource (h : Header) (rid : Byte) (ops : List Byte) (s : State) : Host.Outcome State Fault Refusal :=
  .next (receive .u (.mgmtReq h Request.writeSource.code rid ops) s)

/-- READ_SOURCE (R83). -/
def execReadSource (h : Header) (rid : Byte) (ops : List Byte) (s : State) : Host.Outcome State Fault Refusal :=
  .next (receive .u (.mgmtReq h Request.readSource.code rid ops) s)

/-- ENROLL (R58, R59). -/
def execEnroll (h : Header) (rid : Byte) (ops : List Byte) (s : State) : Host.Outcome State Fault Refusal :=
  .next (receive .u (.mgmtReq h Request.enroll.code rid ops) s)

/-- WITHDRAW_CARRIAGE (R60). -/
def execWithdrawCarriage (h : Header) (rid : Byte) (ops : List Byte) (s : State) : Host.Outcome State Fault Refusal :=
  .next (receive .u (.mgmtReq h Request.withdrawCarriage.code rid ops) s)

/-- RELEASE_CARRIAGE (R61, R62). -/
def execReleaseCarriage (h : Header) (rid : Byte) (ops : List Byte) (s : State) : Host.Outcome State Fault Refusal :=
  .next (receive .u (.mgmtReq h Request.releaseCarriage.code rid ops) s)

/-- READ_CARRIAGE (R63, R64). -/
def execReadCarriage (h : Header) (rid : Byte) (ops : List Byte) (s : State) : Host.Outcome State Fault Refusal :=
  .next (receive .u (.mgmtReq h Request.readCarriage.code rid ops) s)

/-- FIND_TAG (R65). -/
def execFindTag (h : Header) (rid : Byte) (ops : List Byte) (s : State) : Host.Outcome State Fault Refusal :=
  .next (receive .u (.mgmtReq h Request.findTag.code rid ops) s)

/-- READ_WAITLIST (R122). -/
def execReadWaitlist (h : Header) (rid : Byte) (ops : List Byte) (s : State) : Host.Outcome State Fault Refusal :=
  .next (receive .u (.mgmtReq h Request.readWaitlist.code rid ops) s)

/-- READ_OCCUPANCY (R123). -/
def execReadOccupancy (h : Header) (rid : Byte) (ops : List Byte) (s : State) : Host.Outcome State Fault Refusal :=
  .next (receive .u (.mgmtReq h Request.readOccupancy.code rid ops) s)

/-- SET_TIME (R130). -/
def execSetTime (h : Header) (rid : Byte) (ops : List Byte) (s : State) : Host.Outcome State Fault Refusal :=
  .next (receive .u (.mgmtReq h Request.setTime.code rid ops) s)

/-- READ_TIME (R131). -/
def execReadTime (h : Header) (rid : Byte) (ops : List Byte) (s : State) : Host.Outcome State Fault Refusal :=
  .next (receive .u (.mgmtReq h Request.readTime.code rid ops) s)

/-- WRITE_WINDOW (R136, R137). -/
def execWriteWindow (h : Header) (rid : Byte) (ops : List Byte) (s : State) : Host.Outcome State Fault Refusal :=
  .next (receive .u (.mgmtReq h Request.writeWindow.code rid ops) s)

/-- READ_WINDOW (R138). -/
def execReadWindow (h : Header) (rid : Byte) (ops : List Byte) (s : State) : Host.Outcome State Fault Refusal :=
  .next (receive .u (.mgmtReq h Request.readWindow.code rid ops) s)

/-- WRITE_TIMER (R141). -/
def execWriteTimer (h : Header) (rid : Byte) (ops : List Byte) (s : State) : Host.Outcome State Fault Refusal :=
  .next (receive .u (.mgmtReq h Request.writeTimer.code rid ops) s)

/-- READ_TIMER (R142). -/
def execReadTimer (h : Header) (rid : Byte) (ops : List Byte) (s : State) : Host.Outcome State Fault Refusal :=
  .next (receive .u (.mgmtReq h Request.readTimer.code rid ops) s)

/-- LOCK (R170). -/
def execLockReq (h : Header) (rid : Byte) (ops : List Byte) (s : State) : Host.Outcome State Fault Refusal :=
  .next (receive .u (.mgmtReq h Request.lock.code rid ops) s)

/-- RESET (R171). -/
def execResetReq (h : Header) (rid : Byte) (ops : List Byte) (s : State) : Host.Outcome State Fault Refusal :=
  .next (receive .u (.mgmtReq h Request.reset.code rid ops) s)

end Sys2Proof.Machine
end

