-- ==== Sys2Proof/Machine/TimeCommands.lean ====
section
/-! DEFINITION. The meanings of the ticks, the expiries, the STOPn transitions and the resets. -/

namespace Sys2Proof.Machine

/-- BASE_TICK, with the raw STOPn level at it (R125, R126, R139, R149, R156). -/
def execBaseTick (stopnLow : Bool) (s : State) : Host.Outcome State Fault Refusal :=
  .next (takeBaseTick stopnLow s)

/-- TICK_100MS, which is also a 10 ms tick (R68, R113, R125, R139, log 8). -/
def execTick100ms (s : State) : Host.Outcome State Fault Refusal :=
  .next (takeTick100 s)

/-- SECOND_UPDATE (R126, R128, log 8). -/
def execSecondUpdate (s : State) : Host.Outcome State Fault Refusal :=
  .next (takeSecond s)

/-- MINUTE_UPDATE (R126, R128, R134, log 8). -/
def execMinuteUpdate (s : State) : Host.Outcome State Fault Refusal :=
  .next (takeMinute s)

/-- CYCLE_TIMER_EXPIRY (R139, R140, log 9). -/
def execCycleTimerExpiry (n : Fin 4) (s : State) : Host.Outcome State Fault Refusal :=
  .next (expireTimer n s)

/-- MOVE_DEADLINE_EXPIRY (R68, R69, log 9). -/
def execMoveDeadlineExpiry (c : Carriage) (s : State) : Host.Outcome State Fault Refusal :=
  .next (expireDeadline c s)

/-- HOLD_EXPIRY (R113, log 9). -/
def execHoldExpiry (e : Fin 16) (s : State) : Host.Outcome State Fault Refusal :=
  .next (expireHold e s)

/-- ALERT_PULSE_END (R156, log 9). -/
def execAlertPulseEnd (p : Fin 5) (s : State) : Host.Outcome State Fault Refusal :=
  .next (endPulse p s)

/-- STOPN_ASSERTION (R149, R150, log 10). -/
def execStopnAssertion (s : State) : Host.Outcome State Fault Refusal :=
  .next (assertStopn s)

/-- STOPN_RELEASE (R149, log 10). -/
def execStopnRelease (s : State) : Host.Outcome State Fault Refusal :=
  .next (releaseStopn s)

/-- POWER_ON_RESET (R159). -/
def execPowerOnReset (s : State) : Host.Outcome State Fault Refusal :=
  .next (powerOn s)

/-- LINE_RESET (R159). -/
def execLineReset (s : State) : Host.Outcome State Fault Refusal :=
  .next (lineReset s)

/-- LINE_RESET_RELEASE (R159). -/
def execLineResetRelease (s : State) : Host.Outcome State Fault Refusal :=
  .next (lineResetRelease s)

end Sys2Proof.Machine
end

