-- ==== Sys2Proof/Machine/Dispatch.lean ====
section
/-! DEFINITION. One arm for each command, each a direct call of its meaning. -/

namespace Sys2Proof.Machine

def exec (i : Instr) (s : State) : Host.Outcome State Fault Refusal :=
  match i with
  | .moveAbs h x y speed via => Sys2Proof.Machine.execMoveAbs h x y speed via s
  | .moveRel h dx dy speed via => Sys2Proof.Machine.execMoveRel h dx dy speed via s
  | .setup h enables scale turn offset tag => Sys2Proof.Machine.execSetup h enables scale turn offset tag s
  | .stopCarriage h => Sys2Proof.Machine.execStopCarriage h s
  | .transit p h payload => Sys2Proof.Machine.execTransit p h payload s
  | .done h at_ stopped => Sys2Proof.Machine.execDone h at_ stopped s
  | .contact h at_ => Sys2Proof.Machine.execContact h at_ s
  | .mgmtReq h request rid ops => Sys2Proof.Machine.execMgmtReq h request rid ops s
  | .receiveCheckFail p bytes => Sys2Proof.Machine.execReceiveCheckFail p bytes s
  | .overrun p bytes => Sys2Proof.Machine.execOverrun p bytes s
  | .frameAborted p run => Sys2Proof.Machine.execFrameAborted p run s
  | .softResetPendingDiscard p bytes => Sys2Proof.Machine.execSoftResetPendingDiscard p bytes s
  | .pauseReceived p => Sys2Proof.Machine.execPauseReceived p s
  | .goReceived p => Sys2Proof.Machine.execGoReceived p s
  | .uTxStart => Sys2Proof.Machine.execUTxStart s
  | .uTxComplete => Sys2Proof.Machine.execUTxComplete s
  | .dTxStart => Sys2Proof.Machine.execDTxStart s
  | .dTxComplete => Sys2Proof.Machine.execDTxComplete s
  | .baseTick stopnLow => Sys2Proof.Machine.execBaseTick stopnLow s
  | .tick100ms => Sys2Proof.Machine.execTick100ms s
  | .secondUpdate => Sys2Proof.Machine.execSecondUpdate s
  | .minuteUpdate => Sys2Proof.Machine.execMinuteUpdate s
  | .cycleTimerExpiry n => Sys2Proof.Machine.execCycleTimerExpiry n s
  | .moveDeadlineExpiry c => Sys2Proof.Machine.execMoveDeadlineExpiry c s
  | .holdExpiry e => Sys2Proof.Machine.execHoldExpiry e s
  | .alertPulseEnd p => Sys2Proof.Machine.execAlertPulseEnd p s
  | .stopnAssertion => Sys2Proof.Machine.execStopnAssertion s
  | .stopnRelease => Sys2Proof.Machine.execStopnRelease s
  | .powerOnReset => Sys2Proof.Machine.execPowerOnReset s
  | .lineReset => Sys2Proof.Machine.execLineReset s
  | .lineResetRelease => Sys2Proof.Machine.execLineResetRelease s
  | .readStatus h rid ops => Sys2Proof.Machine.execReadStatus h rid ops s
  | .clearFlags h rid ops => Sys2Proof.Machine.execClearFlags h rid ops s
  | .setAlert h rid ops => Sys2Proof.Machine.execSetAlert h rid ops s
  | .readAlert h rid ops => Sys2Proof.Machine.execReadAlert h rid ops s
  | .readCause h rid ops => Sys2Proof.Machine.execReadCause h rid ops s
  | .startReq h rid ops => Sys2Proof.Machine.execStartReq h rid ops s
  | .stopReq h rid ops => Sys2Proof.Machine.execStopReq h rid ops s
  | .resumeReq h rid ops => Sys2Proof.Machine.execResumeReq h rid ops s
  | .endReq h rid ops => Sys2Proof.Machine.execEndReq h rid ops s
  | .setFloor h rid ops => Sys2Proof.Machine.execSetFloor h rid ops s
  | .readFloor h rid ops => Sys2Proof.Machine.execReadFloor h rid ops s
  | .writeZone h rid ops => Sys2Proof.Machine.execWriteZone h rid ops s
  | .readZone h rid ops => Sys2Proof.Machine.execReadZone h rid ops s
  | .writeSource h rid ops => Sys2Proof.Machine.execWriteSource h rid ops s
  | .readSource h rid ops => Sys2Proof.Machine.execReadSource h rid ops s
  | .enroll h rid ops => Sys2Proof.Machine.execEnroll h rid ops s
  | .withdrawCarriage h rid ops => Sys2Proof.Machine.execWithdrawCarriage h rid ops s
  | .releaseCarriage h rid ops => Sys2Proof.Machine.execReleaseCarriage h rid ops s
  | .readCarriage h rid ops => Sys2Proof.Machine.execReadCarriage h rid ops s
  | .findTag h rid ops => Sys2Proof.Machine.execFindTag h rid ops s
  | .readWaitlist h rid ops => Sys2Proof.Machine.execReadWaitlist h rid ops s
  | .readOccupancy h rid ops => Sys2Proof.Machine.execReadOccupancy h rid ops s
  | .setTime h rid ops => Sys2Proof.Machine.execSetTime h rid ops s
  | .readTime h rid ops => Sys2Proof.Machine.execReadTime h rid ops s
  | .writeWindow h rid ops => Sys2Proof.Machine.execWriteWindow h rid ops s
  | .readWindow h rid ops => Sys2Proof.Machine.execReadWindow h rid ops s
  | .writeTimer h rid ops => Sys2Proof.Machine.execWriteTimer h rid ops s
  | .readTimer h rid ops => Sys2Proof.Machine.execReadTimer h rid ops s
  | .lockReq h rid ops => Sys2Proof.Machine.execLockReq h rid ops s
  | .resetReq h rid ops => Sys2Proof.Machine.execResetReq h rid ops s
  | .startSymbol p run => Sys2Proof.Machine.execStartSymbol p run s

end Sys2Proof.Machine
end

