-- ==== Sys2Proof/Safety.lean ====
section
/-! DEFINITION. What counts as a safe state: the laws of the device that the manual states, each as a predicate, in the terms
the claims use, and their conjunction `State.Lawful`; then the premises and the answers that the claims name. -/

namespace Sys2Proof.Machine

/-! ### The carriage table -/

/-- Which optional fields a carriage's state carries (R54, R55). -/
def Context.OptionalsFit (x : Context) : Prop :=
  match x.state with
  | .unenrolled => x = Context.unenrolled
  | .parked => x.inFlight = none ∧ x.holdRef = none ∧ x.faultCause = none ∧ x.reported = none
  | .moving => x.inFlight.isSome ∧ x.holdRef = none ∧ x.faultCause = none ∧ x.reported = none ∧ x.verdictOwed = false
  | .held => x.inFlight = none ∧ x.holdRef.isSome ∧ x.faultCause = none ∧ x.reported = none ∧ x.verdictOwed = false
  | .faulted =>
    x.inFlight.isSome ∧ x.holdRef = none ∧ x.faultCause.isSome ∧ (x.faultCause = some .stray → x.reported.isSome) ∧
      x.verdictOwed = false

/-- The law of the portal stack, read from the top down (R56): the clearance is below the top record's saved clearance, the
saved clearances rise towards the bottom, and below the last one stands clearance 3. -/
def StackLawful : Level → List StackRecord → Prop
  | c, [] => c = 3
  | c, r :: rest => c < r.saved ∧ StackLawful r.saved rest

/-- A plan that keeps the law of the portal stack when it is committed into a zone (R56, R94). -/
def PlanLawful (s : State) (x : Context) (z : Zone) (pops : Nat) (push : Option StackRecord) : Prop :=
  let after := applyPlan pops push (s.placeAt z).guardLevel x.stack x.clearance
  StackLawful after.2 after.1

/-- Every enrolled carriage's stack is lawful, and so is the outcome of every plan that stands for it (R56). -/
def State.StacksLawful (s : State) : Prop :=
  (∀ c : Carriage, StackLawful (s.ctx c).clearance (s.ctx c).stack) ∧
  (∀ c : Carriage, ∀ r ∈ (s.ctx c).inFlight, PlanLawful s (s.ctx c) r.targetZone r.pops r.push) ∧
  (∀ e : Fin 16, ∀ h ∈ s.occ.pool[e], PlanLawful s (s.ctx h.carriage) h.zone.castSucc h.pops h.push)

/-- The in-flight record agrees with its carriage: its origin is the current zone, and it marks an entry move exactly when its
target zone is another (R66, R88). -/
def Context.RecordFits (x : Context) : Prop :=
  ∀ r ∈ x.inFlight, r.originZone = x.zone ∧ r.entry = decide (r.targetZone ≠ x.zone)

/-- The transform lies in its ranges (R28, R54). -/
def Context.TransformFits (x : Context) : Prop := 1 ≤ x.scale.toNat ∧ x.scale.toNat ≤ 16

/-- Every context is of a form R54 allows. -/
def State.ContextsLawful (s : State) : Prop :=
  ∀ c : Carriage, (s.ctx c).OptionalsFit ∧ (s.ctx c).RecordFits ∧ (s.ctx c).TransformFits ∧ (s.ctx c).moveLimit ≤ 255 ∧
    (∀ r ∈ (s.ctx c).inFlight, ∀ n ∈ r.deadline, 1 ≤ n ∧ n ≤ 255)

/-! ### Positions, lookups and the floor -/

/-- Every enrolled position and every in-flight or held target lies on the floor (R24). -/
def State.PointsOnFloor (s : State) : Prop :=
  (∀ c : Carriage, (s.ctx c).enrolled → s.table.onFloor (s.ctx c).position) ∧
  (∀ c : Carriage, ∀ r ∈ (s.ctx c).inFlight, s.table.onFloor r.target) ∧
  (∀ e : Fin 16, ∀ h ∈ s.occ.pool[e], s.table.onFloor h.target)

/-- The recorded zones agree with the lookup (R50). -/
def State.LookupsAgree (s : State) : Prop :=
  (∀ c : Carriage, (s.ctx c).enrolled → s.lookup (s.ctx c).position = (s.ctx c).zone) ∧
  (∀ c : Carriage, ∀ r ∈ (s.ctx c).inFlight, s.lookup r.target = r.targetZone) ∧
  (∀ e : Fin 16, ∀ h ∈ s.occ.pool[e], s.lookup h.target = h.zone.castSucc)

/-! ### Occupancy -/

/-- Each zone's claim count is the number of its claimants, and no nonzero capacity is exceeded (R104). -/
def State.ClaimsLawful (s : State) : Prop :=
  ∀ z : Zone, s.claimCount z = (s.claimants z).length ∧
    ((s.placeAt z).capacity ≠ 0 → s.claimCount z ≤ (s.placeAt z).capacity)

/-- A carriage is in a wait list exactly when it is HELD, once, with one pool entry, in the list of its target zone (R108). -/
def State.WaitsLawful (s : State) : Prop :=
  (∀ z : ZoneIndex, (s.occ.waits[z]).Nodup ∧ ∀ e ∈ s.occ.waits[z], ∃ h ∈ s.occ.pool[e], h.zone = z) ∧
  (∀ e : Fin 16, ∀ h ∈ s.occ.pool[e], e ∈ s.occ.waits[h.zone] ∧ (s.ctx h.carriage).state = .held ∧
    (s.ctx h.carriage).holdRef = some e ∧ h.zone.castSucc ≠ (s.ctx h.carriage).zone ∧ 1 ≤ h.remaining ∧ h.remaining ≤ 255) ∧
  (∀ c : Carriage, (s.ctx c).state = .held → ∃ e ∈ (s.ctx c).holdRef, ∃ h ∈ s.occ.pool[e], h.carriage = c)

/-- A zone is marked recheck pending exactly when it has room and waiters (R112). -/
def State.RechecksLawful (s : State) : Prop :=
  ∀ z : ZoneIndex, s.occ.recheck[z] = (s.hasRoom z.castSucc && !s.occ.waits[z].isEmpty)

/-- The backlog holds at most one record for a carriage, each of its carriages is PARKED, and verdict owed marks exactly
them (R57, R119). -/
def State.BacklogLawful (s : State) : Prop :=
  (s.occ.backlog.map (·.carriage)).Nodup ∧
  (∀ r ∈ s.occ.backlog, (s.ctx r.carriage).state = .parked) ∧
  (∀ c : Carriage, (s.ctx c).verdictOwed = true ↔ c ∈ s.occ.backlog.map (·.carriage))

/-- The backlog is empty whenever UQ has more than 3 free places (R120). -/
def State.BacklogFed (s : State) : Prop := s.occ.backlog = [] ∨ s.uqOpen = false

/-- HOLD_WARN reads set at 12 and above and clear at 8 and below (R121). -/
def State.HoldWarnLawful (s : State) : Prop :=
  (12 ≤ s.occ.inUse → s.occ.holdWarn = true) ∧ (s.occ.inUse ≤ 8 → s.occ.holdWarn = false)

/-! ### The link unit -/

/-- Both queues hold at most 16 frames (R12). -/
def State.QueuesBounded (s : State) : Prop := s.link.dq.length ≤ 16 ∧ s.link.uq.length ≤ 16

/-- A transmitter that is sending a frame of its queue finds it there (R16, R17). -/
def State.TransmittersLawful (s : State) : Prop :=
  (s.link.sendingU = true → s.link.uq ≠ []) ∧ (s.link.txD = .frame → s.link.dq ≠ [])

/-- The carriages of the DRIVE_MOVE frames of a queue, in order. -/
def driveMoveCarriages (q : List DFrame) : List Carriage :=
  q.filterMap fun f => match f with | .driveMove h _ _ => some h.carriage | _ => none

/-- The law of the forwarded moves (R66): every DRIVE_MOVE in DQ belongs to a MOVING carriage whose record carries its source
and sequence and is not marked sent; a carriage has at most one; every record not marked sent has its frame; and outside
GOVERNING none waits that is not being sent. -/
def State.DriveMovesLawful (s : State) : Prop :=
  (∀ f ∈ s.link.dq, match f with
    | .driveMove h target _ =>
      ∃ r ∈ (s.ctx h.carriage).movingRecord h.source h.sequence, r.sent = false ∧ r.level = h.level ∧ r.target = target
    | _ => True) ∧
  (driveMoveCarriages s.link.dq).Nodup ∧
  (∀ c : Carriage, (s.ctx c).state = .moving → ∀ r ∈ (s.ctx c).inFlight, r.sent = false → c ∈ driveMoveCarriages s.link.dq) ∧
  (s.gov.state ≠ .governing → driveMoveCarriages s.link.unsent = [])

/-- The pause states are those R10 gives. -/
def State.PausesAgree (s : State) : Prop := s.link.pausedU = s.pauseCauseU ∧ s.link.pausedD = s.pauseCauseD

/-- A soft reset is pending exactly while the response that answers it stands in UQ (R171, R173). -/
def State.SoftPendingLawful (s : State) : Prop := s.gov.softPending = s.link.uq.any (·.answersReset)

/-- While a reset holds the part, every block stands at its reset values; the time base, the calendar, TIME_INVALID and the
STOPn debounce go on, and the cause flags say which resets came (R159). -/
def State.HeldInReset (s : State) : Prop :=
  s.inReset = true →
    s.link = Link.reset ∧ s.sources = sourcesReset ∧ s.table = ZoneTable.reset ∧ s.occ = Occupancy.reset ∧
    (∀ c : Carriage, s.ctx c = Context.unenrolled) ∧
    s.time.windows = TimeUnit.reset.windows ∧ s.time.timers = TimeUnit.reset.timers ∧
    s.gov = { Governor.reset with
      stopn := s.gov.stopn, stopnCount := s.gov.stopnCount, cause := s.gov.cause,
      powerOnHold := s.gov.powerOnHold, lineHold := s.gov.lineHold }

/-! ### The time unit -/

/-- The calendar holds a valid set of fields (R127). -/
def State.CalendarValid (s : State) : Prop := s.time.calendar.valid = true

/-- While TIME_INVALID is set every window is closed (R129); an entry not in use is closed with zero patterns (R132). -/
def State.WindowsLawful (s : State) : Prop :=
  ∀ w : Fin 16, (s.time.timeInvalid = true → s.time.windows[w].isOpen = false) ∧
    (s.time.windows[w].inUse = false → s.time.windows[w] = WindowEntry.unused)

/-- Counts stay in their ranges (R125, R126); an enabled timer's counter is not 0 (R139). -/
def State.CountsLawful (s : State) : Prop :=
  s.time.divider < 100 ∧ s.time.subSecond < 1000 ∧
  ∀ n : Fin 4, s.time.timers[n].preset ≠ 0 ∧ (s.time.timers[n].enabled = true → s.time.timers[n].counter ≠ 0)

/-! ### Governor control -/

/-- In STANDBY no carriage is MOVING or HELD (R144). -/
def State.StandbyLawful (s : State) : Prop :=
  s.gov.state = .standby → ∀ c : Carriage, (s.ctx c).state ≠ .moving ∧ (s.ctx c).state ≠ .held

/-- A pulse runs only while its alert enable is set, and for at most 8 base ticks (R155, R156). -/
def State.PulsesLawful (s : State) : Prop :=
  ∀ p : Fin 5, s.gov.pulses[p] ≤ 8 ∧ (0 < s.gov.pulses[p] → s.gov.pulseEnabled p = true)

/-- The debounce count stays below 4 between base ticks (R149). -/
def State.DebounceLawful (s : State) : Prop := s.gov.stopnCount < 4

/-! ### The laws that each step keeps by itself -/

/-- No nonzero capacity is exceeded (R104, first law). -/
def State.CapacityKept (s : State) : Prop :=
  ∀ z : Zone, (s.placeAt z).capacity ≠ 0 → s.claimCount z ≤ (s.placeAt z).capacity

/-- The optional fields that a carriage's state carries (R54), the verdict owed mark aside. -/
def Context.FieldsFit (x : Context) : Prop :=
  match x.state with
  | .unenrolled => x = Context.unenrolled
  | .parked => x.inFlight = none ∧ x.holdRef = none
  | .moving => x.inFlight.isSome ∧ x.holdRef = none
  | .held => x.inFlight = none ∧ x.holdRef.isSome
  | .faulted => x.inFlight.isSome ∧ x.holdRef = none

/-- The bookkeeping of claims and holds (R104, R108): every context carries the records of its state, every pool entry in use
is in the list of its zone once and belongs to one HELD carriage that stands in another zone, every HELD carriage owns its
entry, and every claim count is the number of the zone's claimants. -/
structure State.BooksAgree (s : State) : Prop where
  contexts : ∀ c : Carriage, (s.ctx c).FieldsFit ∧ (s.ctx c).RecordFits
  lists : ∀ z : ZoneIndex, (s.occ.waits[z]).Nodup ∧ ∀ e ∈ s.occ.waits[z], ∃ h ∈ s.occ.pool[e], h.zone = z
  entries : ∀ e : Fin 16, ∀ h ∈ s.occ.pool[e], e ∈ s.occ.waits[h.zone] ∧ (s.ctx h.carriage).state = .held ∧
    (s.ctx h.carriage).holdRef = some e ∧ h.zone.castSucc ≠ (s.ctx h.carriage).zone
  held : ∀ c : Carriage, (s.ctx c).state = .held → ∃ e ∈ (s.ctx c).holdRef, ∃ h ∈ s.occ.pool[e], h.carriage = c
  counts : ∀ z : Zone, s.claimCount z = (s.claimants z).length

/-! ### All laws -/

/-- The state keeps every law of the device. -/
structure State.Lawful (s : State) : Prop where
  contexts : s.ContextsLawful
  portalStacks : s.StacksLawful
  floor : s.PointsOnFloor
  lookups : s.LookupsAgree
  claims : s.ClaimsLawful
  waits : s.WaitsLawful
  rechecks : s.RechecksLawful
  backlog : s.BacklogLawful
  fed : s.BacklogFed
  holdWarn : s.HoldWarnLawful
  queues : s.QueuesBounded
  transmitters : s.TransmittersLawful
  driveMoves : s.DriveMovesLawful
  pauses : s.PausesAgree
  softPending : s.SoftPendingLawful
  inReset : s.HeldInReset
  calendar : s.CalendarValid
  windows : s.WindowsLawful
  counts : s.CountsLawful
  standby : s.StandbyLawful
  pulses : s.PulsesLawful
  debounce : s.DebounceLawful

/-! ### The premises of the statements -/

/-- Frames that complete reception are taken: no reset holds the part and no soft reset is pending (R9, R159). -/
def State.Receiving (s : State) : Prop := s.inReset = false ∧ s.gov.softPending = false

/-- A frame that passes the checks on port U arrives: the places it needs are free (R8). -/
def State.TakesU (s : State) : Prop := s.Receiving ∧ s.link.dq.length < 16 ∧ s.link.uq.length < 16

/-- A frame that passes the checks on port D arrives (R8). -/
def State.TakesD (s : State) : Prop := s.Receiving ∧ s.link.uq.length < 16

/-- The sender of a frame may manage the part (R163 check 1). -/
def State.Manages (s : State) (h : Header) : Prop :=
  s.sources[h.source].enabled = true ∧ s.sources[h.source].mayManage = true ∧ s.sources[h.source].ceiling = 0

/-- No zone is marked recheck pending (R112). -/
def State.NonePending (s : State) : Prop := ∀ z : ZoneIndex, s.occ.recheck[z] = false

/-- No DRIVE_MOVE that is not being sent stands in DQ (R18). -/
def State.NothingToPurge (s : State) : Prop := s.link.purged = []

/-- The command of a request of the catalogue (R168). -/
def Request.command (r : Request) (h : Header) (rid : Byte) (ops : List Byte) : Instr :=
  match r with
  | .readStatus => .readStatus h rid ops
  | .clearFlags => .clearFlags h rid ops
  | .setAlert => .setAlert h rid ops
  | .readAlert => .readAlert h rid ops
  | .readCause => .readCause h rid ops
  | .start => .startReq h rid ops
  | .stop => .stopReq h rid ops
  | .resume => .resumeReq h rid ops
  | .end_ => .endReq h rid ops
  | .setFloor => .setFloor h rid ops
  | .readFloor => .readFloor h rid ops
  | .writeZone => .writeZone h rid ops
  | .readZone => .readZone h rid ops
  | .writeSource => .writeSource h rid ops
  | .readSource => .readSource h rid ops
  | .enroll => .enroll h rid ops
  | .withdrawCarriage => .withdrawCarriage h rid ops
  | .releaseCarriage => .releaseCarriage h rid ops
  | .readCarriage => .readCarriage h rid ops
  | .findTag => .findTag h rid ops
  | .readWaitlist => .readWaitlist h rid ops
  | .readOccupancy => .readOccupancy h rid ops
  | .setTime => .setTime h rid ops
  | .readTime => .readTime h rid ops
  | .writeWindow => .writeWindow h rid ops
  | .readWindow => .readWindow h rid ops
  | .writeTimer => .writeTimer h rid ops
  | .readTimer => .readTimer h rid ops
  | .lock => .lockReq h rid ops
  | .reset => .resetReq h rid ops

/-- The command of a received frame on a port (R9). -/
def InFrame.command (p : Port) : InFrame → Instr
  | .moveAbs h x y speed via => .moveAbs h x y speed via
  | .moveRel h dx dy speed via => .moveRel h dx dy speed via
  | .setup h enables scale turn offset tag => .setup h enables scale turn offset tag
  | .stopCarriage h => .stopCarriage h
  | .transit h payload => .transit p h payload
  | .mgmtReq h request rid ops => .mgmtReq h request rid ops
  | .done h at_ stopped => .done h at_ stopped
  | .contact h at_ => .contact h at_

/-- `c` is a MOVE_ABS or a MOVE_REL with these fields, whose translation in `s` yields `target` (R32, R33; `none` is EDGE). -/
def MoveCommand (s : State) (c : Instr) (h : Header) (speed : Speed) (via : Byte) (target : Option Point) : Prop :=
  (∃ x y, c = .moveAbs h x y speed via ∧ target = translateAbs s.table (s.ctx h.carriage) x y) ∨
  (∃ dx dy, c = .moveRel h dx dy speed via ∧ target = translateRel s.table (s.ctx h.carriage) dx dy)

/-- The move may be judged: steps 1 to 6 pass (R85, R86). -/
def State.Judges (s : State) (h : Header) (speed : Speed) (via : Byte) : Prop :=
  s.TakesU ∧ s.sources[h.source].enabled = true ∧ s.gov.state = .governing ∧ (s.ctx h.carriage).state = .parked ∧
    (s.ctx h.carriage).verdictOwed = false ∧ speed ≠ 0 ∧ (via.toNat ≤ 0x3F ∨ via = 0xFF)

/-- `c` is answered with a MGMT_RSP and changes nothing else (R164): the frame in reception ends, the response enters UQ. -/
def Answers (c : Instr) (s : State) (h : Header) (code rid : Byte) (status : Status) (data : List Byte) : Prop :=
  exec c s = .next (pushUq (.mgmtRsp { h with level := 0 } code rid status data) (setReceiver .u .idle s))

/-- `c` is taken and answered OK without data after its effect `t` (R164). -/
def AnswersOk (c : Instr) (h : Header) (code rid : Byte) (s t : State) : Prop :=
  exec c s = .next (pushUq (.mgmtRsp { h with level := 0 } code rid .ok []) t)

/-- `c` is refused with an immediate VERDICT and changes nothing else (R84, R99). -/
def Refuses (c : Instr) (s : State) (h : Header) (r : Reason) (speed : Speed) : Prop :=
  exec c s = .next (pushUq (.verdict { h with level := s.effectiveLevel h } .refused r (s.adjusted h) speed)
    (setReceiver .u .idle s))

end Sys2Proof.Machine
end

