-- ==== Sys2Proof/Certificates/Slice0/Obligations.lean ====
section
/-! DEFINITION. The statements about the part, chapter by chapter. Where a statement gives the whole next state, everything that
the state does not mention is unchanged. -/

open Sys2Proof Sys2Proof.Machine

/-! ### Steps and the queue of commands -/

/-- The command at the front of the queue runs on the state with the queue's rest. -/
def Obligations.StepRunsFrontCommand : Prop :=
  ∀ (s : State) (c : Instr) (rest : List Instr), s.pending = c :: rest → step s = exec c { s with pending := rest }

/-- No command touches the queue of commands or takes back what has been sent (the model's records, log 15). -/
def Obligations.CommandsLeaveQueueAndRecord : Prop :=
  ∀ (c : Instr) (s t : State), exec c s = .next t →
    t.pending = s.pending ∧ s.wireU <+: t.wireU ∧ s.wireD <+: t.wireD

/-! ### Resets -/

/-- The values after a power-on reset that has completed (R22, R23, R53, R55, R80, R124, R129, R143, R144, R159, R160). That
State.reset is the completed reset, held by no reset, with the divider and the sub-second count at 0, is the model's choice
(log 13): the base tick that completes a POWER_ON_RESET leaves both at 1. The receivers' buffers and overlong marks and the
model's own fields rest on log 15, log 17 and log 21. That state keeps every law of the device, the laws that the invariants
below keep among them. -/
def Obligations.ResetValues : Prop :=
  (let s := State.reset
   s.link = { rxU := .idle, rxD := .idle, pausedU := false, pausedD := false, stoppedU := false, stoppedD := false,
              sendingU := false, txD := .idle, dq := [], uq := [], haltSlot := false } ∧
   s.sources[(0 : Source)] = { enabled := true, ceiling := 0, mayManage := true } ∧
   (∀ i : Source, i ≠ 0 → s.sources[i] = { enabled := false, ceiling := 3, mayManage := false }) ∧
   (∀ i : ZoneIndex, s.table.descriptors[i] = .void) ∧ s.table.floorBox = { x0 := 0, y0 := 0, x1 := 0, y1 := 0 } ∧
   s.table.floorValid = false ∧
   (∀ c : Carriage, s.ctx c =
     { state := .unenrolled, position := { x := 0, y := 0 }, zone := 0, clearance := 3, stack := [], scale := 1, turn := 0,
       offset := { x := 0, y := 0 }, tag := 0, moveLimit := 0, inFlight := none, holdRef := none, faultCause := none,
       reported := none, verdictOwed := false }) ∧
   (∀ z : Zone, s.claimCount z = 0) ∧ (∀ e : Fin 16, s.occ.pool[e] = none) ∧
   (∀ z : ZoneIndex, s.occ.waits[z] = [] ∧ s.occ.recheck[z] = false) ∧ s.occ.backlog = [] ∧ s.occ.holdWarn = false ∧
   s.time.divider = 0 ∧ s.time.subSecond = 0 ∧ s.time.timeInvalid = true ∧
   s.time.calendar = { seconds := 0x00, minutes := 0x00, hours := 0x00, weekday := 0x40, day := 0x01, month := 0x01, year := 0x00 } ∧
   (∀ w : Fin 16, s.time.windows[w] = { inUse := false, openPattern := .zero, closePattern := .zero, isOpen := false }) ∧
   (∀ n : Fin 4, s.time.timers[n] = { enabled := false, source := .ms1, preset := 1000, action := .event, counter := 0 }) ∧
   s.gov.state = .standby ∧ s.gov.flags = 0 ∧ s.gov.haltEnables = 0xF ∧ s.gov.alertEnables = 0 ∧
   (∀ p : Fin 5, s.gov.pulses[p] = 0) ∧ s.gov.alertLow = false ∧ s.gov.stopn = false ∧ s.gov.stopnCount = 0 ∧
   s.gov.lock = false ∧ s.gov.softPending = false ∧ s.gov.cause = 1 ∧ s.gov.powerOnHold = false ∧ s.gov.lineHold = false ∧
   s.pending = []) ∧
  (State.reset.Lawful ∧ State.reset.CapacityKept ∧ State.reset.BooksAgree)

/-- A power-on reset keeps nothing (R159, R160): every block takes its power-on value. The next base tick completes it, and GO
is sent on both ports; that the next base tick does so is log 13. A line reset keeps the time base, the calendar, TIME_INVALID
and the STOPn debounce, and sets LINE beside the other cause flags (R143, R159, R160). The release of RSTn completes it and
sends GO on both ports; without a line reset in force it does nothing. Each reset holds the part until its own completion,
whatever becomes of the other (that a power-on leaves the level of RSTn as it is, is log 13). While a reset holds the part: a
frame that completes reception on either port is discarded and sets no flag; start symbols, PAUSE and GO have no effect
(log 14). -/
def Obligations.HardResets : Prop :=
  (∀ s : State, s.inReset = true ↔ s.gov.powerOnHold = true ∨ s.gov.lineHold = true) ∧
  ((∀ s : State, exec .powerOnReset s = .next
     { State.reset with
       gov := { State.reset.gov with powerOnHold := true, lineHold := s.gov.lineHold }
       wireU := s.wireU, wireD := s.wireD, freeCount := s.freeCount, pending := s.pending }) ∧
   (∀ (s : State) (raw : Bool), s.gov.powerOnHold = true → ∃ t, exec (.baseTick raw) s = .next t ∧
     t.gov.powerOnHold = false ∧ t.gov.lineHold = s.gov.lineHold ∧
     (s.wireU ++ [.go]) <+: t.wireU ∧ (s.wireD ++ [.go]) <+: t.wireD)) ∧
  ((∀ s : State, exec .lineReset s = .next
     { State.reset with
       time := { State.reset.time with
         divider := s.time.divider, subSecond := s.time.subSecond, calendar := s.time.calendar,
         timeInvalid := s.time.timeInvalid }
       gov := { State.reset.gov with
         stopn := s.gov.stopn, stopnCount := s.gov.stopnCount, cause := s.gov.cause ||| 2,
         powerOnHold := s.gov.powerOnHold, lineHold := true }
       wireU := s.wireU, wireD := s.wireD, freeCount := s.freeCount, pending := s.pending }) ∧
   (∀ s : State, s.gov.lineHold = true → exec .lineResetRelease s = .next
     { s with gov := { s.gov with lineHold := false }, wireU := s.wireU ++ [.go], wireD := s.wireD ++ [.go] }) ∧
   (∀ s : State, s.gov.lineHold = false → exec .lineResetRelease s = .next s)) ∧
  (∀ s : State, s.inReset = true →
     (∀ (p : Port) (f : InFrame), kindAccepted p f.kind = true → exec (f.command p) s = .next (setReceiver p .idle s)) ∧
     (∀ (p : Port) (bytes : List Byte),
       exec (.receiveCheckFail p bytes) s = .next (setReceiver p .idle s) ∧
       exec (.overrun p bytes) s = .next (setReceiver p .idle s) ∧
       exec (.softResetPendingDiscard p bytes) s = .next (setReceiver p .idle s) ∧
       exec (.startSymbol p bytes) s = .next s ∧ exec (.frameAborted p bytes) s = .next s) ∧
     (∀ p : Port, exec (.pauseReceived p) s = .next s ∧ exec (.goReceived p) s = .next s))

/-- READ_CAUSE answers the three cause flags and clears them (R161); RESET places its marked response, then sets the pending
mark and re-evaluates the pause states (R171). The completion of the response that answers the RESET makes the soft reset take
effect (R173): operational state is cleared, configuration is kept, enabled timers are reloaded, SOFT is set, and GO is sent
on both ports. -/
def Obligations.CauseAndSoftReset : Prop :=
  (∀ (s : State) (h : Header) (rid : Byte), s.TakesU → s.Manages h →
     let t := setReceiver .u .idle s
     exec (.readCause h rid []) s = .next
       (pushUq (.mgmtRsp { h with level := 0 } 0x05 rid .ok [s.gov.cause.setWidth 8]) { t with gov := { s.gov with cause := 0 } }) ∧
     exec (.resetReq h rid []) s = .next
       (let placed := pushUqMarked (.mgmtRsp { h with level := 0 } 0x51 rid .ok []) true t
        evalPauses { placed with gov := { placed.gov with softPending := true } })) ∧
  (∀ (s : State) (e : UEntry) (rest : List UEntry), s.link.sendingU = true → s.link.uq = e :: rest →
     e.answersReset = true → s.gov.softPending = true →
     exec .uTxComplete s = .next
       { s with
         link := State.reset.link
         carriages := State.reset.carriages
         occ := State.reset.occ
         time := { s.time with timers := s.time.timers.map fun t => if t.enabled then { t with counter := t.preset } else t }
         gov := { s.gov with
           state := .standby, flags := 0, pulses := State.reset.gov.pulses, softPending := false, cause := s.gov.cause ||| 4 }
         wireU := s.wireU ++ [.frame e.frame.bytes, .go], wireD := s.wireD ++ [.go] })

/-- Every step keeps a part that a reset holds at its reset values, but for the time base, the calendar, TIME_INVALID and the
STOPn debounce, which go on (R159 for the line reset, 1.9 for the link unit). That the power-on reset too holds every block, and
that a receiver and a permit stay at the values of R22 meanwhile, is log 14 (DEDUCED); that the ticks taken by themselves go on
before a power-on reset has completed is log 13. -/
def Obligations.StepKeepsHeldPart : Prop := ∀ s t : State, s.HeldInReset → step s = .next t → t.HeldInReset

/-! ### The carriage link -/

/-- PAUSE sets a port's transmitter to STOPPED and GO to PERMITTED, and nothing else; a STOPPED transmitter begins no frame,
and one that is sending completes its frame; the part's own PAUSE and GO do not wait for the permit (R11). Re-evaluation of
the pause states (R10): each takes the value its conditions give; a change is sent once, to that port's peer; a state found
unchanged sends nothing; nothing else changes. -/
def Obligations.FlowControl : Prop :=
  ((∀ s : State, s.inReset = false →
     exec (.pauseReceived .u) s = .next { s with link := { s.link with stoppedU := true } } ∧
     exec (.pauseReceived .d) s = .next { s with link := { s.link with stoppedD := true } } ∧
     exec (.goReceived .u) s = .next { s with link := { s.link with stoppedU := false } } ∧
     exec (.goReceived .d) s = .next { s with link := { s.link with stoppedD := false } }) ∧
   (∀ s : State, s.link.stoppedU = true → exec .uTxStart s = .next s) ∧
   (∀ s : State, s.link.stoppedD = true → exec .dTxStart s = .next s) ∧
   (∀ (s : State) (e : UEntry) (rest : List UEntry), s.link.stoppedU = true → s.link.sendingU = true → s.link.uq = e :: rest →
     ∃ t, exec .uTxComplete s = .next t ∧ t.link.sendingU = false ∧ (s.wireU ++ [.frame e.frame.bytes]) <+: t.wireU) ∧
   (∀ (s : State) (f : DFrame) (rest : List DFrame), s.link.stoppedD = true → s.link.txD = .frame → s.link.dq = f :: rest →
     ∃ t, exec .dTxComplete s = .next t ∧ t.link.txD = .idle ∧ (s.wireD ++ [.frame f.bytes]) <+: t.wireD) ∧
   (∀ (s : State) (u d : Bool),
     (evalPauses { s with link := { s.link with stoppedU := u, stoppedD := d } }).wireU = (evalPauses s).wireU ∧
     (evalPauses { s with link := { s.link with stoppedU := u, stoppedD := d } }).wireD = (evalPauses s).wireD)) ∧
  (∀ s : State,
     let u : Bool := decide (16 - s.link.dq.length < 3 ∨ 16 - s.link.uq.length < 3 ∨ s.gov.softPending = true)
     let d : Bool := decide (16 - s.link.uq.length < 3 ∨ s.gov.softPending = true)
     evalPauses s =
       { s with
         link := { s.link with pausedU := u, pausedD := d }
         wireU := s.wireU ++ (if s.link.pausedU = u then [] else [if u then .pause else .go])
         wireD := s.wireD ++ (if s.link.pausedD = d then [] else [if d then .pause else .go]) })

/-- A start symbol begins a frame with an empty buffer, whose first 46 bytes are kept; in RECEIVING it ends the frame in
progress, which sets LINKERR unless a soft reset is pending (R7, R9). The bytes that follow the symbol are the command's
operand (log 3). A completed frame that fails a check, and one that passes and finds a place taken, is discarded and sets
LINKERR and nothing else; while a soft reset is pending it is discarded and sets nothing (R7, R8, R9): a frame of port U needs
a place of each queue, one of port D a place of UQ (R8). The receiver returns to IDLE. -/
def Obligations.FramesBegunAndDiscarded : Prop :=
  ((∀ run : List Byte, Receiver.started.addBytes run =
     { receiving := true, buffer := run.take 46, overlong := decide (46 < run.length) }) ∧
   (∀ (s : State) (p : Port) (run : List Byte), s.inReset = false → (s.receiver p).receiving = false →
     exec (.startSymbol p run) s = .next (setReceiver p (Receiver.started.addBytes run) s)) ∧
   (∀ (s : State) (p : Port) (run : List Byte), s.inReset = false → (s.receiver p).receiving = true →
     s.gov.softPending = false →
     exec (.frameAborted p run) s = .next (raise .linkerr (setReceiver p (Receiver.started.addBytes run) s))) ∧
   (∀ (s : State) (p : Port) (run : List Byte), s.inReset = false → (s.receiver p).receiving = true →
     s.gov.softPending = true →
     exec (.frameAborted p run) s = .next (setReceiver p (Receiver.started.addBytes run) s))) ∧
  (∀ (s : State) (p : Port) (bytes : List Byte), s.inReset = false →
     let r := (s.receiver p).collect bytes
     (s.gov.softPending = false → checkFrame p r.buffer r.overlong = none →
       exec (.receiveCheckFail p bytes) s = .next (raise .linkerr (setReceiver p .idle s))) ∧
     (s.gov.softPending = false → ∀ f, checkFrame p r.buffer r.overlong = some f → s.roomFor p = false →
       exec (.overrun p bytes) s = .next (raise .linkerr (setReceiver p .idle s))) ∧
     (s.gov.softPending = true →
       exec (.softResetPendingDiscard p bytes) s = .next (setReceiver p .idle s))) ∧
  (∀ s : State, (s.roomFor .u = true ↔ s.link.dq.length < 16 ∧ s.link.uq.length < 16) ∧
     (s.roomFor .d = true ↔ s.link.uq.length < 16))

/-- A frame given by its fields is the frame given by its bytes: when the bytes that end a reception complete the frame `f`,
the command does what `f`'s own command does (R7, R8, R9; the operands are log 1 and log 2). -/
def Obligations.TypedFramesAreTheirBytes : Prop :=
  ∀ (s : State) (p : Port) (f : InFrame) (bytes : List Byte), kindAccepted p f.kind = true → f.fits = true →
    (s.receiver p).collect bytes = { receiving := true, buffer := f.bytes, overlong := false } →
    exec (.receiveCheckFail p bytes) s = exec (f.command p) s ∧ exec (.overrun p bytes) s = exec (f.command p) s ∧
    exec (.softResetPendingDiscard p bytes) s = exec (f.command p) s

/-- The frame format. Every frame, received or sent, is its kind, its header bits, its payload, high bytes first, and its
check (R2, R5): the received kinds and the ports that accept them (R1); DRIVE_MOVE, DRIVE_STOP, HALT_ALL, HEARTBEAT, VERDICT,
MGMT_RSP, DONE_UP, CONTACT_UP and TRANSIT as the part sends them, HALT_ALL and HEARTBEAT with a header of zeros (R6); the
verdict and reason codes (R100) and the status codes (R165). The check is that of R4 in its direct form, bit by bit (log 5,
DEDUCED). Every frame of a kind the port accepts, so laid out, passes the receive checks and reads back as itself, with every
field at every value (R3, R7). -/
def Obligations.FrameFormatReadsBack : Prop :=
  (∀ (p : Port) (f : InFrame), kindAccepted p f.kind = true → f.fits = true → checkFrame p f.bytes false = some f) ∧
  (∀ kind : Byte, (kindAccepted .u kind = true ↔ kind ∈ [0x21, 0x22, 0x23, 0x24, 0x2F, 0x30]) ∧
     (kindAccepted .d kind = true ↔ kind ∈ [0x51, 0x52, 0x2F])) ∧
  (crc16 [] = 0xFFFF ∧
   ∀ (bytes : List Byte) (b : Byte), crc16 (bytes ++ [b]) = [7, 6, 5, 4, 3, 2, 1, 0].foldl
     (fun (c : BitVec 16) (i : Nat) => if c.getLsbD 15 = b.getLsbD i then c <<< 1 else (c <<< 1) ^^^ 0x1021) (crc16 bytes)) ∧
  (let framed := fun (kind : Byte) (h : Header) (payload : List Byte) =>
     let body := kind :: BitVec.ofNat 8 (h.source.val * 32 + h.carriage.val) ::
       BitVec.ofNat 8 (h.level.val * 64 + payload.length) :: h.sequence :: payload
     body ++ [(crc16 body).extractLsb' 8 8, (crc16 body).extractLsb' 0 8]
   let two := fun w : BitVec 16 => [w.extractLsb' 8 8, w.extractLsb' 0 8]
   let three := fun v : Coord => [v.extractLsb' 16 8, v.extractLsb' 8 8, v.extractLsb' 0 8]
   let point := fun p : Point => three p.x ++ three p.y
   let zeros : Header := { source := 0, carriage := 0, level := 0, sequence := 0 }
   let verdictCode := fun v : Verdict => (match v with
     | .clipped => 0x01 | .held => 0x02 | .released => 0x03 | .refused => 0x04 | .expired => 0x05 | .withdrawn => 0x06
     | .cancelled => 0x07 : Byte)
   let reasonCode := fun r : Reason => (match r with
     | .none => 0x00 | .source => 0x01 | .carriage => 0x02 | .standby => 0x03 | .halted => 0x04 | .busy => 0x05
     | .faulted => 0x06 | .badValue => 0x07 | .edge => 0x08 | .closed => 0x09 | .level => 0x0A | .portal => 0x0B
     | .depth => 0x0C | .speed => 0x0D | .full => 0x0E | .noRoom => 0x0F | .stop => 0x10 | .end_ => 0x11 : Byte)
   let statusCode := fun s : Status => (match s with
     | .ok => 0x00 | .denied => 0x01 | .unknown => 0x02 | .locked => 0x03 | .state => 0x04 | .badIndex => 0x05
     | .badValue => 0x06 | .inUse => 0x07 | .noRoom => 0x08 | .busy => 0x09 : Byte)
   (∀ f : InFrame, f.bytes = match f with
     | .moveAbs h x y speed via => framed 0x21 h (three x ++ three y ++ two speed ++ [via])
     | .moveRel h dx dy speed via => framed 0x22 h (three dx ++ three dy ++ two speed ++ [via])
     | .setup h enables scale turn offset tag => framed 0x23 h ([enables, scale, turn] ++ point offset ++ [tag])
     | .stopCarriage h => framed 0x24 h []
     | .transit h payload => framed 0x2F h payload
     | .mgmtReq h request rid ops => framed 0x30 h (request :: rid :: ops)
     | .done h p stopped => framed 0x51 h (point p ++ [stopped])
     | .contact h p => framed 0x52 h (point p)) ∧
   (∀ f : DFrame, f.bytes = match f with
     | .driveMove h target speed => framed 0x41 h (point target ++ two speed)
     | .driveStop h => framed 0x44 h []
     | .heartbeat g c => framed 0x46 zeros [g, c]
     | .transit h payload => framed 0x2F h payload) ∧
   haltAllBytes = framed 0x45 zeros [] ∧
   (∀ f : UFrame, f.bytes = match f with
     | .verdict h v r adjusted speed =>
       framed 0x61 h ([verdictCode v, reasonCode r, if adjusted then 0x01 else 0x00] ++ two speed)
     | .mgmtRsp h request rid status data => framed 0x31 h (request :: rid :: statusCode status :: data)
     | .doneUp h p stopped tag zone => framed 0x71 h (point p ++ [stopped, tag, zone])
     | .contactUp h p tag zone => framed 0x72 h (point p ++ [tag, zone])
     | .transit h payload => framed 0x2F h payload) ∧
   (∀ v : Coord, coordBytes v = three v) ∧ (∀ w : BitVec 16, wordBytes w = two w) ∧
   (∀ (bytes : List Byte) (i : Nat), byteAt bytes i = bytes[i]?.getD 0x00))

/-- A run of bytes that passes the receive checks is the layout of the frame it is read as: no bit of it is dropped, so a
frame forwarded unchanged carries the bytes received (R7, R19; the check of R4 in its direct form, log 5, DEDUCED). -/
def Obligations.ReceivedFrameKeepsItsBytes : Prop :=
  ∀ (p : Port) (bytes : List Byte) (overlong : Bool) (f : InFrame), checkFrame p bytes overlong = some f →
    f.bytes = bytes ∧ kindAccepted p f.kind = true ∧ f.fits = true

/-- Every step leaves both pause states as R10 gives them. -/
def Obligations.StepKeepsPauses : Prop := ∀ s t : State, s.PausesAgree → step s = .next t → t.PausesAgree

/-- Every step leaves at most 16 frames in each queue (R12) and a frame to send for a transmitter that is sending (R16, R17).
-/
def Obligations.StepKeepsQueues : Prop :=
  ∀ s t : State, s.QueuesBounded → s.TransmittersLawful → step s = .next t → t.QueuesBounded ∧ t.TransmittersLawful

/-- Every step leaves a soft reset pending exactly while the response that answers its RESET stands in UQ (R171, R173). -/
def Obligations.StepKeepsSoftReset : Prop := ∀ s t : State, s.SoftPendingLawful → step s = .next t → t.SoftPendingLawful

/-- A transmitter that is IDLE and PERMITTED begins the head of its queue; on port D the HALT_ALL of the halt slot goes first
and leaves the slot empty; otherwise nothing begins (R16, R17, log 11). A completed frame has been sent whole and leaves the
head of its queue, the frames behind it keeping their order; a DRIVE_MOVE marks its record sent (R12, R15, R16, R17, R67). The
gain of places is announced: the pause states are re-evaluated, on port U the backlog is fed, and then every zone marked
recheck pending is re-examined, in increasing index order (R15, R112). -/
def Obligations.Transmission : Prop :=
  let served := fun t : State =>
    (List.finRange 64).foldl (fun u (z : ZoneIndex) => if u.occ.recheck[z] then reexamine z u else u) t
  (∀ s : State,
     (s.link.sendingU = false → s.link.stoppedU = false → s.link.uq ≠ [] →
       exec .uTxStart s = .next { s with link := { s.link with sendingU := true } }) ∧
     (s.link.sendingU = true ∨ s.link.stoppedU = true ∨ s.link.uq = [] → exec .uTxStart s = .next s) ∧
     (s.link.txD = .idle → s.link.stoppedD = false → s.link.haltSlot = true →
       exec .dTxStart s = .next { s with link := { s.link with txD := .haltAll, haltSlot := false } }) ∧
     (s.link.txD = .idle → s.link.stoppedD = false → s.link.haltSlot = false → s.link.dq ≠ [] →
       exec .dTxStart s = .next { s with link := { s.link with txD := .frame } }) ∧
     (s.link.txD ≠ .idle ∨ s.link.stoppedD = true ∨ s.link.haltSlot = false ∧ s.link.dq = [] →
       exec .dTxStart s = .next s)) ∧
  ((∀ (s : State) (e : UEntry) (rest : List UEntry), s.link.sendingU = true → s.link.uq = e :: rest →
     (e.answersReset = false ∨ s.gov.softPending = false) →
     (∃ t, exec .uTxComplete s = .next t ∧ t.link.sendingU = false ∧ rest <+: t.link.uq ∧
       (s.wireU ++ [.frame e.frame.bytes]) <+: t.wireU) ∧
     exec .uTxComplete s = .next (served (feed
       (evalPauses { s with link := { s.link with sendingU := false, uq := rest }, wireU := s.wireU ++ [.frame e.frame.bytes] })))) ∧
   (∀ (s : State) (f : DFrame) (rest : List DFrame), s.link.txD = .frame → s.link.dq = f :: rest →
     (∃ t, exec .dTxComplete s = .next t ∧ t.link.txD = .idle ∧ rest <+: t.link.dq ∧
       (s.wireD ++ [.frame f.bytes]) <+: t.wireD) ∧
     ((∀ h p v, f ≠ .driveMove h p v) → exec .dTxComplete s = .next (served
       (evalPauses { s with link := { s.link with txD := .idle, dq := rest }, wireD := s.wireD ++ [.frame f.bytes] }))) ∧
     (∀ h p v r, f = .driveMove h p v → (s.ctx h.carriage).state = .moving →
       (s.ctx h.carriage).inFlight = some r → r.source = h.source → r.sequence = h.sequence →
       exec .dTxComplete s = .next (served
         (evalPauses (setCtx h.carriage { s.ctx h.carriage with inFlight := some { r with sent := true } }
           { s with link := { s.link with txD := .idle, dq := rest }, wireD := s.wireD ++ [.frame f.bytes] }))))) ∧
   (∀ s : State, s.link.txD = .haltAll → exec .dTxComplete s = .next
     { s with link := { s.link with txD := .idle }, wireD := s.wireD ++ [.frame haltAllBytes] }))

/-- A TRANSIT is forwarded unchanged to the other port's queue; from port U only when its source is enabled, else it is
answered REFUSED/SOURCE (R19, R102). -/
def Obligations.TransitForwarded : Prop :=
  ∀ (s : State) (h : Header) (payload : List Byte), payload.length ≤ 40 →
    (s.TakesD → exec (.transit .d h payload) s = .next (pushUq (.transit h payload) (setReceiver .d .idle s))) ∧
    (s.TakesU → s.sources[h.source].enabled = true →
      exec (.transit .u h payload) s = .next (pushDq (.transit h payload) (setReceiver .u .idle s))) ∧
    (s.TakesU → s.sources[h.source].enabled = false → Refuses (.transit .u h payload) s h .source 0) ∧
    (DFrame.transit h payload).bytes = (InFrame.transit h payload).bytes ∧
    (UFrame.transit h payload).bytes = (InFrame.transit h payload).bytes

/-- Every step keeps the law of the forwarded moves: every DRIVE_MOVE in DQ belongs to a MOVING carriage whose record carries
its source, sequence, level and target and is not marked sent; a carriage has at most one; every record not marked sent has its
frame; and outside GOVERNING none waits that is not being sent (R66). The books are premised (BooksAgree). -/
def Obligations.StepKeepsDriveMoves : Prop :=
  ∀ s t : State, s.DriveMovesLawful → s.BooksAgree → step s = .next t → t.DriveMovesLawful

/-! ### Floor and translation -/

/-- Translation in exact whole numbers (R26, R32, R33): a MOVE_REL is scaled, turned and placed, a MOVE_ABS is offset; a
target stands when every stage stays in the coordinate range and the point lies on the floor, and otherwise the outcome is
EDGE. -/
def Obligations.Translation : Prop :=
  let ok := fun v : Int => -8388608 ≤ v ∧ v ≤ 8388607
  (∀ (t : ZoneTable) (x : Context) (dx dy : Coord) (p : Point),
    let sx := dx.toInt * x.scale.toNat
    let sy := dy.toInt * x.scale.toNat
    let tx := if x.turn = 0 then sx else if x.turn = 1 then -sy else if x.turn = 2 then -sx else sy
    let ty := if x.turn = 0 then sy else if x.turn = 1 then sx else if x.turn = 2 then -sy else -sx
    translateRel t x dx dy = some p ↔
      ok sx ∧ ok sy ∧ ok tx ∧ ok ty ∧ p.x.toInt = x.position.x.toInt + tx ∧ p.y.toInt = x.position.y.toInt + ty ∧
        t.onFloor p = true) ∧
  (∀ (t : ZoneTable) (c : Context) (x y : Coord) (p : Point),
    translateAbs t c x y = some p ↔
      p.x.toInt = x.toInt + c.offset.x.toInt ∧ p.y.toInt = y.toInt + c.offset.y.toInt ∧ t.onFloor p = true) ∧
  (∀ (t : ZoneTable) (p : Point), t.onFloor p = true ↔
    t.floorValid = true ∧ t.floorBox.x0.toInt ≤ p.x.toInt ∧ p.x.toInt ≤ t.floorBox.x1.toInt ∧
      t.floorBox.y0.toInt ≤ p.y.toInt ∧ p.y.toInt ≤ t.floorBox.y1.toInt)

/-- Every step keeps every enrolled position, in-flight target and held target on the floor (the law of R24). That a SET_FLOOR
finds no held move rests on the law of STANDBY (R144), which is premised with the books (BooksAgree). -/
def Obligations.StepKeepsPointsOnFloor : Prop :=
  ∀ s t : State, s.PointsOnFloor → s.StandbyLawful → s.BooksAgree → step s = .next t → t.PointsOnFloor

/-- SET_FLOOR, step by step (R24). WRITE_SOURCE replaces one record of the source table whole (R82). -/
def Obligations.SetFloorAndWriteSourceJudged : Prop :=
  (∀ (s : State) (h : Header) (rid : Byte) (ops : List Byte), s.TakesU → s.Manages h → ops.length = 12 →
     let c := Instr.setFloor h rid ops
     let coord := fun i : Nat => byteAt ops i ++ byteAt ops (i + 1) ++ byteAt ops (i + 2)
     let b : Box := { x0 := coord 0, y0 := coord 3, x1 := coord 6, y1 := coord 9 }
     let ordered := b.x0.toInt ≤ b.x1.toInt ∧ b.y0.toInt ≤ b.y1.toInt
     let fits := (∀ k : Carriage, (s.ctx k).state ≠ .unenrolled → b.holds (s.ctx k).position = true) ∧
       (∀ k : Carriage, ∀ r ∈ (s.ctx k).inFlight, b.holds r.target = true)
     (s.gov.lock = true → Answers c s h 0x20 rid .locked []) ∧
     (s.gov.lock = false → s.gov.state ≠ .standby → Answers c s h 0x20 rid .state []) ∧
     (s.gov.lock = false → s.gov.state = .standby → ¬ordered → Answers c s h 0x20 rid .badValue []) ∧
     (s.gov.lock = false → s.gov.state = .standby → ordered → ¬fits → Answers c s h 0x20 rid .inUse []) ∧
     (s.gov.lock = false → s.gov.state = .standby → ordered → fits →
       AnswersOk c h 0x20 rid s
         { setReceiver .u .idle s with table := { s.table with floorBox := b, floorValid := true } })) ∧
  (∀ (s : State) (h : Header) (rid i e k m : Byte), s.TakesU → s.Manages h →
     let c := Instr.writeSource h rid [i, e, k, m]
     let bad := 1 < e.toNat ∨ 1 < m.toNat ∨ 3 < k.toNat
     (s.gov.lock = true → Answers c s h 0x28 rid .locked []) ∧
     (s.gov.lock = false → 7 < i.toNat → Answers c s h 0x28 rid .badIndex []) ∧
     (s.gov.lock = false → i.toNat ≤ 7 → bad → Answers c s h 0x28 rid .badValue []) ∧
     (s.gov.lock = false → ¬bad → ∀ (n : Source) (l : Level), i.toNat = n.val → k.toNat = l.val →
       AnswersOk c h 0x28 rid s
         { setReceiver .u .idle s with
           sources := s.sources.set n.val { enabled := decide (e = 1), ceiling := l, mayManage := decide (m = 1) } }))

/-- A SETUP is judged on source, enrolment and ranges, and writes the enabled fields together without an answer (R28, R29). -/
def Obligations.SetupJudged : Prop :=
  ∀ (s : State) (h : Header) (enables scale turn tag : Byte) (offset : Point), s.TakesU →
    let c := Instr.setup h enables scale turn offset tag
    let x := s.ctx h.carriage
    let good := (enables.getLsbD 0 = true → 1 ≤ scale.toNat ∧ scale.toNat ≤ 16) ∧ (enables.getLsbD 1 = true → turn.toNat ≤ 3) ∧
      (enables.getLsbD 3 = true → tag.toNat ≤ 127)
    (s.sources[h.source].enabled = false → Refuses c s h .source 0) ∧
    (s.sources[h.source].enabled = true → x.state = .unenrolled → Refuses c s h .carriage 0) ∧
    (s.sources[h.source].enabled = true → x.state ≠ .unenrolled → ¬good → Refuses c s h .badValue 0) ∧
    (s.sources[h.source].enabled = true → x.state ≠ .unenrolled → good →
      ∃ y : Context, exec c s = .next (setCtx h.carriage y (setReceiver .u .idle s)) ∧
        y = { x with scale := y.scale, turn := y.turn, offset := y.offset, tag := y.tag } ∧
        y.scale = (if enables.getLsbD 0 then scale else x.scale) ∧
        y.turn.val = (if enables.getLsbD 1 then turn.toNat else x.turn.val) ∧
        y.offset = (if enables.getLsbD 2 then offset else x.offset) ∧
        y.tag.toNat = (if enables.getLsbD 3 then tag.toNat else x.tag.toNat))

/-! ### The zone table -/

/-- The lookup of a point is the lowest index of a present place whose box contains it, edges included, else the floor zone;
the floor box takes no part (R41). -/
def Obligations.LookupIsLowestPlace : Prop :=
  ∀ (s : State) (p : Point),
    let inPlace := fun i : ZoneIndex => ∃ pl, s.table.descriptors[i] = .place pl ∧
      pl.box.x0.toInt ≤ p.x.toInt ∧ p.x.toInt ≤ pl.box.x1.toInt ∧ pl.box.y0.toInt ≤ p.y.toInt ∧ p.y.toInt ≤ pl.box.y1.toInt
    (∀ i : ZoneIndex, s.lookup p = i.castSucc ↔ inPlace i ∧ ∀ j : ZoneIndex, j < i → ¬inPlace j) ∧
    (s.lookup p = 64 ↔ ∀ i : ZoneIndex, ¬inPlace i) ∧
    (∀ s' : State, s'.table.descriptors = s.table.descriptors → s'.lookup p = s.lookup p)

/-- WRITE_ZONE, step by step (R46 to R51): the operand tests of R48, the use tests of R49 and R50, and the whole
replacement, each field of the descriptor from its operand bytes. -/
def Obligations.WriteZoneJudged : Prop :=
  ∀ (s : State) (h : Header) (rid : Byte) (ops : List Byte), s.TakesU → s.Manages h → ops.length = 21 →
    let c := Instr.writeZone h rid ops
    let kind := (byteAt ops 1).toNat
    let window := (byteAt ops 20).toNat
    let coord := fun i : Nat => byteAt ops i ++ byteAt ops (i + 1) ++ byteAt ops (i + 2)
    let b : Box := { x0 := coord 2, y0 := coord 5, x1 := coord 8, y1 := coord 11 }
    let bad := 3 < kind ∨
      ((kind = 1 ∨ kind = 2) ∧ (b.x1.toInt < b.x0.toInt ∨ b.y1.toInt < b.y0.toInt ∨ 3 < (byteAt ops 14).toNat ∨
        15 < (byteAt ops 15).toNat ∨ 1 < (byteAt ops 18).toNat ∨ (0x10 ≤ window ∧ window ≤ 0xFE))) ∨
      (kind = 3 ∧ (0x40 < (byteAt ops 2).toNat ∨ 0x3F < (byteAt ops 3).toNat ∨ 3 < (byteAt ops 4).toNat))
    (s.gov.lock = true → Answers c s h 0x22 rid .locked []) ∧
    (s.gov.lock = false → 63 < (byteAt ops 0).toNat → Answers c s h 0x22 rid .badIndex []) ∧
    (s.gov.lock = false → (byteAt ops 0).toNat ≤ 63 → bad → Answers c s h 0x22 rid .badValue []) ∧
    (s.gov.lock = false → ¬bad → ∀ i : ZoneIndex, (byteAt ops 0).toNat = i.val →
      ∃ d : Descriptor,
        (kind = 0 → d = .void) ∧
        (kind = 1 ∨ kind = 2 → ∃ p : Place, d = .place p ∧ p.guarded = decide (kind = 2) ∧ p.box = b ∧
          p.guardLevel.val = (byteAt ops 14).toNat ∧ p.capacity = (byteAt ops 15).toNat ∧
          p.speedLimit = byteAt ops 16 ++ byteAt ops 17 ∧ p.policy = (if byteAt ops 18 = 0x00 then .clip else .refuse) ∧
          p.holdLimit = (byteAt ops 19).toNat ∧ p.window.map (·.val) = (if window = 0xFF then none else some window)) ∧
        (kind = 3 → ∃ f t l, d = .portal f t l ∧ f.val = (byteAt ops 2).toNat ∧ t.val = (byteAt ops 3).toNat ∧
          l.val = (byteAt ops 4).toNat) ∧
        let proposed := s.table.descriptors.set i.val d
        let inUse := 0 < s.claimCount i.castSucc ∨ s.occ.waits[i] ≠ [] ∨
          ((∃ f t u, s.table.descriptors[i] = .portal f t u) ∧
            ((∃ k : Carriage, (∃ r ∈ (s.ctx k).stack, r.portal = i) ∨ ∃ r ∈ (s.ctx k).inFlight, ∃ q ∈ r.push, q.portal = i) ∨
             ∃ e : Fin 16, ∃ g ∈ s.occ.pool[e], ∃ q ∈ g.push, q.portal = i))
        let moves := (∃ k : Carriage, (s.ctx k).state ≠ .unenrolled ∧ lookupIn proposed (s.ctx k).position ≠ (s.ctx k).zone) ∨
          (∃ k : Carriage, ∃ r ∈ (s.ctx k).inFlight, lookupIn proposed r.target ≠ r.targetZone) ∨
          (∃ e : Fin 16, ∃ g ∈ s.occ.pool[e], lookupIn proposed g.target ≠ g.zone.castSucc)
        (inUse ∨ moves → Answers c s h 0x22 rid .inUse []) ∧
        (¬inUse → ¬moves →
          AnswersOk c h 0x22 rid s { setReceiver .u .idle s with table := { s.table with descriptors := proposed } }))

/-- Every step keeps every recorded point in its recorded zone: enrolled positions, in-flight targets and held targets (the law
of R50). The books of claims and holds are premised (BooksAgree). A WRITE_ZONE keeps the law in every state. -/
def Obligations.StepKeepsLookups : Prop :=
  (∀ s t : State, s.LookupsAgree → s.BooksAgree → step s = .next t → t.LookupsAgree) ∧
  (∀ (s t : State) (h : Header) (rid : Byte) (ops : List Byte), s.LookupsAgree → exec (.writeZone h rid ops) s = .next t →
    t.LookupsAgree)

/-! ### Carriage contexts -/

/-- ENROLL, step by step (R58, R59). WITHDRAW_CARRIAGE ends the enrolment of a PARKED carriage that owes no verdict, and
releases its claim (R60). -/
def Obligations.EnrollAndWithdrawJudged : Prop :=
  (∀ (s : State) (h : Header) (rid : Byte) (ops : List Byte), s.TakesU → s.Manages h → ops.length = 9 →
     let c := Instr.enroll h rid ops
     let coord := fun i : Nat => byteAt ops i ++ byteAt ops (i + 1) ++ byteAt ops (i + 2)
     let p : Point := { x := coord 1, y := coord 4 }
     let z := s.lookup p
     let room := ((s.placeAt z).capacity = 0 ∨ s.claimCount z < (s.placeAt z).capacity) ∧ s.waitList z = []
     (31 < (byteAt ops 0).toNat → Answers c s h 0x30 rid .badIndex []) ∧
     (∀ k : Carriage, (byteAt ops 0).toNat = k.val →
       (((s.ctx k).state ≠ .unenrolled ∨ s.table.floorValid = false) → Answers c s h 0x30 rid .state []) ∧
       ((s.ctx k).state = .unenrolled → s.table.floorValid = true →
         ((s.table.onFloor p = false ∨ 127 < (byteAt ops 7).toNat) → Answers c s h 0x30 rid .badValue []) ∧
         (s.table.onFloor p = true → (byteAt ops 7).toNat ≤ 127 →
           (¬room → Answers c s h 0x30 rid .noRoom []) ∧
           (room → AnswersOk c h 0x30 rid s
             (grantClaim z (setCtx k
               { state := .parked, position := p, zone := z, clearance := 3, stack := [], scale := 1, turn := 0,
                 offset := { x := 0, y := 0 }, tag := (byteAt ops 7).setWidth 7, moveLimit := (byteAt ops 8).toNat,
                 inFlight := none, holdRef := none, faultCause := none, reported := none, verdictOwed := false }
               (setReceiver .u .idle s)))))))) ∧
  (∀ (s : State) (h : Header) (rid : Byte) (ops : List Byte), s.TakesU → s.Manages h → ops.length = 1 →
     let c := Instr.withdrawCarriage h rid ops
     (31 < (byteAt ops 0).toNat → Answers c s h 0x31 rid .badIndex []) ∧
     (∀ k : Carriage, (byteAt ops 0).toNat = k.val →
       (((s.ctx k).state ≠ .parked ∨ (s.ctx k).verdictOwed = true) → Answers c s h 0x31 rid .busy []) ∧
       ((s.ctx k).state = .parked → (s.ctx k).verdictOwed = false →
         AnswersOk c h 0x31 rid s (setCtx k .unenrolled (releaseClaim (s.ctx k).zone (setReceiver .u .idle s))))))

/-- RELEASE_CARRIAGE, step by step (R61, R62): every claim is released, one is granted at the given position, the context is
written, and the released zones are offered in increasing index order. -/
def Obligations.ReleaseJudged : Prop :=
  ∀ (s : State) (h : Header) (rid : Byte) (ops : List Byte), s.TakesU → s.Manages h → ops.length = 7 →
    let c := Instr.releaseCarriage h rid ops
    let coord := fun i : Nat => byteAt ops i ++ byteAt ops (i + 1) ++ byteAt ops (i + 2)
    let p : Point := { x := coord 1, y := coord 4 }
    let z := s.lookup p
    (31 < (byteAt ops 0).toNat → Answers c s h 0x32 rid .badIndex []) ∧
    (∀ k : Carriage, (byteAt ops 0).toNat = k.val →
      let x := s.ctx k
      let mine := z = x.zone ∨ ∃ r ∈ x.inFlight, r.entry = true ∧ r.targetZone = z
      let room := ((s.placeAt z).capacity = 0 ∨ s.claimCount z < (s.placeAt z).capacity) ∧ s.waitList z = []
      (x.state ≠ .faulted → Answers c s h 0x32 rid .state []) ∧
      (x.state = .faulted → s.table.onFloor p = false → Answers c s h 0x32 rid .badValue []) ∧
      (x.state = .faulted → s.table.onFloor p = true → ¬mine → ¬room → Answers c s h 0x32 rid .noRoom []) ∧
      (x.state = .faulted → s.table.onFloor p = true → (mine ∨ room) →
        let y := { x with position := p, zone := z, stack := [], clearance := 3, inFlight := none, faultCause := none,
                          reported := none, state := .parked }
        let t := setReceiver .u .idle s
        (∀ r, x.inFlight = some r → r.entry = true → r.targetZone < x.zone →
          AnswersOk c h 0x32 rid s
            (offer x.zone (offer r.targetZone (setCtx k y (grantClaim z (dropClaim x.zone (dropClaim r.targetZone t))))))) ∧
        (∀ r, x.inFlight = some r → r.entry = true → x.zone ≤ r.targetZone →
          AnswersOk c h 0x32 rid s
            (offer r.targetZone (offer x.zone (setCtx k y (grantClaim z (dropClaim r.targetZone (dropClaim x.zone t))))))) ∧
        ((∀ r ∈ x.inFlight, r.entry = false) →
          AnswersOk c h 0x32 rid s (offer x.zone (setCtx k y (grantClaim z (dropClaim x.zone t)))))))

/-- A matching DONE commits, undoes, stays or strays its move, and its DONE_UP follows (R20, R70 to R73); a stray sets the STRAY
flag, and a set STRAY_HALT halts a GOVERNING part before the DONE_UP is placed (R73, R150). The plan a commit applies: each pop
sets the clearance to the removed record's saved clearance, and a push sets it to the target's guard level (R71). A DONE that
does not match changes no context, but for the reported position of a TIMEOUT fault it belongs to; its DONE_UP follows in every
case (R20, R74). -/
def Obligations.DoneTaken : Prop :=
  (∀ (s : State) (h : Header) (p : Point) (stopped : Byte) (r : InFlight), s.TakesD →
     let c := h.carriage
     let x := s.ctx c
     let t := setReceiver .d .idle s
     let up := UFrame.doneUp h p stopped (x.tag.setWidth 8) (byteOf (s.lookup p).val)
     let rested := { x with position := p, inFlight := none, state := .parked }
     let after := applyPlan r.pops r.push (s.placeAt r.targetZone).guardLevel x.stack x.clearance
     x.state = .moving → x.inFlight = some r → r.source = h.source → r.sequence = h.sequence → r.sent = true →
     (s.table.onFloor p = true → r.entry = true → s.lookup p = r.targetZone →
       exec (.done h p stopped) s = .next (pushUq up (releaseClaim r.originZone
         (setCtx c { rested with zone := r.targetZone, stack := after.1, clearance := after.2 } t)))) ∧
     (s.table.onFloor p = true → r.entry = true → s.lookup p ≠ r.targetZone → s.lookup p = r.originZone →
       exec (.done h p stopped) s = .next (pushUq up (releaseClaim r.targetZone (setCtx c rested t)))) ∧
     (s.table.onFloor p = true → r.entry = false → s.lookup p = x.zone →
       exec (.done h p stopped) s = .next (pushUq up (setCtx c rested t))) ∧
     ((s.table.onFloor p = false ∨ r.entry = true ∧ s.lookup p ≠ r.targetZone ∧ s.lookup p ≠ r.originZone ∨
         r.entry = false ∧ s.lookup p ≠ x.zone) →
       let strayed := raise .stray (setCtx c
         { x with state := .faulted, faultCause := some .stray, reported := some p,
                  inFlight := some { r with deadline := none } } t)
       (s.gov.state = .governing → s.gov.haltEnables.getLsbD 3 = true →
         exec (.done h p stopped) s = .next (pushUq up (haltEntry strayed))) ∧
       ((s.gov.state ≠ .governing ∨ s.gov.haltEnables.getLsbD 3 = false) →
         exec (.done h p stopped) s = .next (pushUq up strayed)))) ∧
  ((∀ (c g : Level) (stack : List StackRecord), applyPlan 0 none g stack c = (stack, c)) ∧
   (∀ (n : Nat) (c g : Level) (r : StackRecord) (stack : List StackRecord),
     applyPlan (n + 1) none g (r :: stack) c = applyPlan n none g stack r.saved) ∧
   (∀ (n : Nat) (c g : Level) (stack : List StackRecord) (q : StackRecord),
     applyPlan n (some q) g stack c = (q :: (applyPlan n none g stack c).1, g))) ∧
  (∀ (s : State) (h : Header) (p : Point) (stopped : Byte), s.TakesD →
     let c := h.carriage
     let x := s.ctx c
     let t := setReceiver .d .idle s
     let mine := fun r : InFlight => r.source = h.source ∧ r.sequence = h.sequence
     let up := UFrame.doneUp h p stopped (if x.state = .unenrolled then 0xFF else x.tag.setWidth 8) (byteOf (s.lookup p).val)
     let matching := x.state = .moving ∧ ∃ r ∈ x.inFlight, mine r ∧ r.sent = true
     let late := x.state = .faulted ∧ x.faultCause = some .timeout ∧ ∃ r ∈ x.inFlight, mine r
     (late → exec (.done h p stopped) s = .next (pushUq up (setCtx c { x with reported := some p } t))) ∧
     (¬matching → ¬late → exec (.done h p stopped) s = .next (pushUq up t)))

/-! ### Admission -/

/-- The effective level of a frame is the larger of its level field and its source's ceiling, and the adjusted mark says that
the ceiling raised it, whether or not the source is enabled (R81). Step 11 of the admission check (R95): the smaller nonzero
limit binds, the target's when both are equal; its zone's policy refuses or clips a speed above it. The
fields of a present place are its descriptor's; the floor zone's are fixed (R40). -/
def Obligations.LevelAndSpeedJudged : Prop :=
  (∀ (s : State) (h : Header),
     (s.effectiveLevel h).val = max h.level.val (s.sources[h.source].ceiling).val ∧
     (s.adjusted h = true ↔ h.level.val < (s.sources[h.source].ceiling).val)) ∧
  (∀ (origin target : Place) (speed : Speed),
     let decided := fun b : Place =>
       (speed.toNat ≤ b.speedLimit.toNat → judgeSpeed origin target speed = .ok (speed, false)) ∧
       (b.speedLimit.toNat < speed.toNat → b.policy = .refuse → judgeSpeed origin target speed = .error b.speedLimit) ∧
       (b.speedLimit.toNat < speed.toNat → b.policy = .clip → judgeSpeed origin target speed = .ok (b.speedLimit, true))
     (origin.speedLimit = 0 → target.speedLimit = 0 → judgeSpeed origin target speed = .ok (speed, false)) ∧
     (origin.speedLimit ≠ 0 → (target.speedLimit = 0 ∨ origin.speedLimit.toNat < target.speedLimit.toNat) → decided origin) ∧
     (target.speedLimit ≠ 0 → (origin.speedLimit = 0 ∨ target.speedLimit.toNat ≤ origin.speedLimit.toNat) → decided target)) ∧
  (∀ (s : State) (i : ZoneIndex) (p : Place), s.table.descriptors[i] = .place p → s.placeAt i.castSucc = p) ∧
  (∀ s : State, (s.placeAt 64).guarded = false ∧ (s.placeAt 64).guardLevel = 3 ∧ (s.placeAt 64).capacity = 0 ∧
    (s.placeAt 64).speedLimit = 0 ∧ (s.placeAt 64).policy = .clip ∧ (s.placeAt 64).holdLimit = 0 ∧ (s.placeAt 64).window = none)

/-- Steps 1 to 7 of the admission check refuse in their order (R84 to R87), with nothing changed but the VERDICT; at step 7
the VERDICT is placed first, then the EDGE flag is set, and a set EDGE_HALT halts the governor. -/
def Obligations.MovesRefusedInOrder : Prop :=
  ∀ (s : State) (c : Instr) (h : Header) (speed : Speed) (via : Byte) (target : Option Point), s.TakesU →
    MoveCommand s c h speed via target →
    let x := s.ctx h.carriage
    (s.sources[h.source].enabled = false → Refuses c s h .source 0) ∧
    (s.sources[h.source].enabled = true →
      (s.gov.state = .standby → Refuses c s h .standby 0) ∧
      (s.gov.state = .halted → Refuses c s h .halted 0) ∧
      (s.gov.state = .governing →
        (x.state = .unenrolled → Refuses c s h .carriage 0) ∧
        (x.state = .moving ∨ x.state = .held ∨ x.state = .parked ∧ x.verdictOwed = true → Refuses c s h .busy 0) ∧
        (x.state = .faulted → Refuses c s h .faulted 0) ∧
        (x.state = .parked → x.verdictOwed = false →
          (speed = 0 ∨ 0x40 ≤ via.toNat ∧ via.toNat ≤ 0xFE → Refuses c s h .badValue 0) ∧
          (s.Judges h speed via → target = none →
            let t := raise .edge (pushUq
              (.verdict { h with level := s.effectiveLevel h } .refused .edge (s.adjusted h) 0) (setReceiver .u .idle s))
            (s.gov.haltEnables.getLsbD 0 = false → exec c s = .next t) ∧
            (s.gov.haltEnables.getLsbD 0 = true → exec c s = .next (haltEntry t))))))

/-- A stay move needs no window, authority or room; it is bound by its zone's speed limit alone (R88, R95), and is forwarded
as R66 and R97 state: DRIVE_MOVE into DQ, the record written, the carriage MOVING, no claim taken. -/
def Obligations.StayMove : Prop :=
  ∀ (s : State) (c : Instr) (h : Header) (speed : Speed) (via : Byte) (p : Point), s.Judges h speed via →
    MoveCommand s c h speed via (some p) → s.lookup p = (s.ctx h.carriage).zone →
    let x := s.ctx h.carriage
    let level := s.effectiveLevel h
    let limit := (s.placeAt x.zone).speedLimit
    let forwarded := fun v : Speed => setCtx h.carriage
      { x with
        state := .moving, holdRef := none
        inFlight := some
          { source := h.source, sequence := h.sequence, level, target := p, targetZone := x.zone, originZone := x.zone,
            entry := false, pops := 0, push := none, sent := false,
            deadline := if x.moveLimit = 0 then none else some x.moveLimit } }
      (pushDq (.driveMove { h with level } p v) (setReceiver .u .idle s))
    (limit = 0 ∨ speed.toNat ≤ limit.toNat → exec c s = .next (forwarded speed)) ∧
    (limit ≠ 0 → limit.toNat < speed.toNat → (s.placeAt x.zone).policy = .clip →
      exec c s = .next (pushUq (.verdict { h with level } .clipped .none (s.adjusted h) limit) (forwarded limit))) ∧
    (limit ≠ 0 → limit.toNat < speed.toNat → (s.placeAt x.zone).policy = .refuse → Refuses c s h .speed limit)

/-- An entry move after step 8 (R89 to R98): a zone whose window is not in use or not open (R44), clearance and speed refused;
forwarded with a claim when the target has room and no waiters; otherwise FULL, NO_ROOM, or held at the tail of the target's
wait list in the lowest free entry. -/
def Obligations.EntryMove : Prop :=
  ∀ (s : State) (c : Instr) (h : Header) (speed : Speed) (via : Byte) (p : Point), s.Judges h speed via →
    MoveCommand s c h speed via (some p) → s.lookup p ≠ (s.ctx h.carriage).zone →
    let x := s.ctx h.carriage
    let level := s.effectiveLevel h
    let z := s.lookup p
    let t := setReceiver .u .idle s
    let shut := ∃ w ∈ (s.placeAt z).window, s.time.windows[w].inUse = false ∨ s.time.windows[w].isOpen = false
    (shut → Refuses c s h .closed 0) ∧
    (¬shut →
      (∀ reason, judgeClearance s x level via z = .error reason → Refuses c s h reason 0) ∧
      (∀ plan, judgeClearance s x level via z = .ok plan →
        (∀ bound, judgeSpeed (s.placeAt x.zone) (s.placeAt z) speed = .error bound → Refuses c s h .speed bound) ∧
        (∀ v clipped, judgeSpeed (s.placeAt x.zone) (s.placeAt z) speed = .ok (v, clipped) →
          let room := ((s.placeAt z).capacity = 0 ∨ s.claimCount z < (s.placeAt z).capacity) ∧ s.waitList z = []
          (room ∨ z = 64 →
            let forwarded := grantClaim z (setCtx h.carriage
              { x with
                state := .moving, holdRef := none
                inFlight := some
                  { source := h.source, sequence := h.sequence, level, target := p, targetZone := z, originZone := x.zone,
                    entry := true, pops := plan.pops, push := plan.push, sent := false,
                    deadline := if x.moveLimit = 0 then none else some x.moveLimit } }
              (pushDq (.driveMove { h with level } p v) t))
            (clipped = false → exec c s = .next forwarded) ∧
            (clipped = true →
              exec c s = .next (pushUq (.verdict { h with level } .clipped .none (s.adjusted h) v) forwarded))) ∧
          (¬room → ∀ i : ZoneIndex, z = i.castSucc →
            ((s.placeAt z).holdLimit = 0 → Refuses c s h .full 0) ∧
            ((s.placeAt z).holdLimit ≠ 0 → (∀ e : Fin 16, (s.occ.pool[e]).isSome) → Refuses c s h .noRoom 0) ∧
            (∀ e : Fin 16, (s.placeAt z).holdLimit ≠ 0 → s.occ.pool[e] = none →
              (∀ e' : Fin 16, e' < e → (s.occ.pool[e']).isSome) →
              exec c s = .next (pushUq (.verdict { h with level } .held .none (s.adjusted h) v)
                (takeEntry e
                  { carriage := h.carriage, source := h.source, sequence := h.sequence, level, adjusted := s.adjusted h,
                    target := p, zone := i, speed := v, clipped, pops := plan.pops, push := plan.push,
                    remaining := (s.placeAt z).holdLimit }
                  (setCtx h.carriage { x with state := .held, holdRef := some e }
                    (setWaits i (s.occ.waits[i] ++ [e]) t)))))))))

/-- Step 10 of the admission check (R90 to R94): unwinding pops the top records whose saved clearance the guard level reaches;
the effective level, the named portal, the push and the GUARDED condition follow in that order. -/
def Obligations.ClearanceJudged : Prop :=
  (∀ (g c : Level) (stack : List StackRecord),
    let popped := stack.takeWhile fun r => decide (r.saved ≤ g)
    unwind g c stack = (popped.length, (popped.getLast?.map (·.saved)).getD c)) ∧
  (∀ (s : State) (x : Context) (level : Level) (via : Byte) (z : Zone),
    let g := (s.placeAt z).guardLevel
    let u := unwind g x.clearance x.stack
    let guardedFails := (s.placeAt z).guarded = true ∧ u.2 ≠ g
    (g < level → judgeClearance s x level via z = .error .level) ∧
    (level ≤ g → 0x3F < via.toNat →
      (guardedFails → judgeClearance s x level via z = .error .level) ∧
      (¬guardedFails → judgeClearance s x level via z = .ok { pops := u.1, push := none })) ∧
    (level ≤ g → ∀ i : ZoneIndex, via.toNat = i.val →
      ((∀ f t l, s.table.descriptors[i] ≠ .portal f t l) → judgeClearance s x level via z = .error .portal) ∧
      (∀ f t l, s.table.descriptors[i] = .portal f t l →
        (l < level → judgeClearance s x level via z = .error .level) ∧
        (level ≤ l → (f ≠ x.zone ∨ t.castSucc ≠ z) → judgeClearance s x level via z = .error .portal) ∧
        (level ≤ l → f = x.zone → t.castSucc = z →
          (g < u.2 → 4 ≤ x.stack.length - u.1 → judgeClearance s x level via z = .error .depth) ∧
          (g < u.2 → x.stack.length - u.1 < 4 →
            judgeClearance s x level via z = .ok { pops := u.1, push := some { saved := u.2, portal := i } }) ∧
          (u.2 ≤ g → guardedFails → judgeClearance s x level via z = .error .level) ∧
          (u.2 ≤ g → ¬guardedFails → judgeClearance s x level via z = .ok { pops := u.1, push := none })))))

/-- Any plan that passes the check keeps the law of the portal stack when it is committed (R56, R94). -/
def Obligations.PlansKeepStackLaw : Prop :=
  ∀ (s : State) (x : Context) (level : Level) (via : Byte) (z : Zone) (plan : Plan), StackLawful x.clearance x.stack →
    judgeClearance s x level via z = .ok plan →
    let after := applyPlan plan.pops plan.push (s.placeAt z).guardLevel x.stack x.clearance
    StackLawful after.2 after.1 ∧ after.1.length ≤ 3

/-- Every step keeps the law of the portal stack, for every carriage as it stands and for the outcome of every plan that stands
for it, in flight or held (R56, R71, R94). The books of claims and holds are premised (BooksAgree). -/
def Obligations.StepKeepsStacks : Prop :=
  ∀ s t : State, s.StacksLawful → s.BooksAgree → step s = .next t → t.StacksLawful

/-- STOP_CARRIAGE is judged on source and enrolment; a taken one withdraws a held move with reason STOP, and its DRIVE_STOP
enters DQ in every state of the carriage and of the governor (R36, R76, R101, R116). A CONTACT changes no context: it sets the
CONTACT flag, halts a GOVERNING part whose CONTACT_HALT is set, and its CONTACT_UP follows (R21, R75, R150). -/
def Obligations.StopCarriageAndContactTaken : Prop :=
  (∀ (s : State) (h : Header), s.TakesU →
     let x := s.ctx h.carriage
     let t := setReceiver .u .idle s
     let stop := DFrame.driveStop { h with level := s.effectiveLevel h }
     (s.sources[h.source].enabled = false → Refuses (.stopCarriage h) s h .source 0) ∧
     (s.sources[h.source].enabled = true → x.state = .unenrolled → Refuses (.stopCarriage h) s h .carriage 0) ∧
     (s.sources[h.source].enabled = true → (x.state = .parked ∨ x.state = .moving ∨ x.state = .faulted) →
       exec (.stopCarriage h) s = .next (pushDq stop t)) ∧
     (∀ e, s.sources[h.source].enabled = true → x.state = .held → x.holdRef = some e →
       exec (.stopCarriage h) s = .next (pushDq stop (endHold .withdrawn .stop e t)))) ∧
  (∀ (s : State) (h : Header) (p : Point), s.TakesD →
     let x := s.ctx h.carriage
     let t := raise .contact (setReceiver .d .idle s)
     let up := UFrame.contactUp h p (if x.state = .unenrolled then 0xFF else x.tag.setWidth 8) (byteOf (s.lookup p).val)
     ((s.gov.state ≠ .governing ∨ s.gov.haltEnables.getLsbD 1 = false) →
       exec (.contact h p) s = .next (pushUq up t)) ∧
     (s.gov.state = .governing → s.gov.haltEnables.getLsbD 1 = true →
       exec (.contact h p) s = .next (pushUq up (haltEntry t))))

/-! ### Occupancy, holding and wait lists -/

/-- Every step keeps every nonzero capacity (R104, first law). -/
def Obligations.StepKeepsCapacity : Prop := ∀ s t : State, s.CapacityKept → step s = .next t → t.CapacityKept

/-- Every step keeps the books: records, wait lists and holds belong together, and every claim count is the number of the
zone's claimants (R104, second law; R108). -/
def Obligations.StepKeepsBooks : Prop := ∀ s t : State, s.BooksAgree → step s = .next t → t.BooksAgree

/-- Every step leaves the backlog empty or UQ without a place outside the reserve (R120). -/
def Obligations.StepKeepsBacklogFed : Prop := ∀ s t : State, s.BacklogFed → step s = .next t → t.BacklogFed

/-- Every step leaves a zone marked recheck pending exactly when it has room and waiters (R112). The books are premised
(BooksAgree). -/
def Obligations.StepKeepsRechecks : Prop :=
  ∀ s t : State, s.RechecksLawful → s.BooksAgree → step s = .next t → t.RechecksLawful

/-- Every step keeps the law of the backlog, at most one record for a carriage, each of its carriages PARKED, verdict owed
marking exactly them (R57, R119), and with it the form of every context: the optional fields its state carries, transform,
move limit and deadline in their ranges (R28, R54, R68). The books and the fed backlog (R120) are premised. -/
def Obligations.StepKeepsBacklogAndContexts : Prop :=
  (∀ s t : State, s.BacklogLawful → s.BacklogFed → s.BooksAgree → step s = .next t → t.BacklogLawful) ∧
  (∀ s t : State, s.ContextsLawful → s.BacklogLawful → s.BacklogFed → s.BooksAgree → step s = .next t → t.ContextsLawful)

/-- Every step leaves HOLD_WARN set at 12 and above and clear at 8 and below (R121). -/
def Obligations.StepKeepsHoldWarn : Prop := ∀ s t : State, s.HoldWarnLawful → step s = .next t → t.HoldWarnLawful

/-- The end of a hold by expiry or withdrawal (R113, R115, R119, R120): the entry leaves its list wherever it stands and is
freed, its carriage is PARKED, no claim moves, and its record is fed at once or waits with verdict owed. A HOLD_EXPIRY ends
the hold of an entry whose hold remaining is 1, with EXPIRED, and of no other (log 9). HOLD_WARN is set when the in-use count
rises to 12 and cleared when it falls to 8, each change setting HOLDX; at any other count it keeps its value (R121). Feeding
moves the oldest record of the backlog into UQ as its VERDICT and clears verdict owed, again and again while UQ has more than
3 free places (R120). -/
def Obligations.HoldEnds : Prop :=
  ((∀ (s : State) (v : Verdict) (r : Reason) (e : Fin 16) (h : HoldEntry), s.occ.pool[e] = some h →
     let t := endHold v r e s
     let x := s.ctx h.carriage
     let list := (s.occ.waits[h.zone]).erase e
     t.occ.pool[e] = none ∧ (∀ e' : Fin 16, e' ≠ e → t.occ.pool[e'] = s.occ.pool[e']) ∧
     t.occ.waits[h.zone] = list ∧ (∀ z : ZoneIndex, z ≠ h.zone → t.occ.waits[z] = s.occ.waits[z]) ∧
     t.occ.recheck[h.zone] = (s.occ.recheck[h.zone] && !list.isEmpty) ∧
     (∀ z : ZoneIndex, z ≠ h.zone → t.occ.recheck[z] = s.occ.recheck[z]) ∧
     t.occ.claims = s.occ.claims ∧ t.link.dq = s.link.dq ∧
     (3 < 16 - s.link.uq.length → s.occ.backlog = [] →
       t.occ.backlog = [] ∧ t.link.uq = s.link.uq ++ [{ frame := (h.report v r).frame, answersReset := false }] ∧
       t.ctx h.carriage = { x with state := .parked, holdRef := none, verdictOwed := false }) ∧
     (16 - s.link.uq.length ≤ 3 →
       t.occ.backlog = s.occ.backlog ++ [h.report v r] ∧ t.link.uq = s.link.uq ∧
       t.ctx h.carriage = { x with state := .parked, holdRef := none, verdictOwed := true })) ∧
   (∀ (s : State) (e : Fin 16) (h : HoldEntry), s.occ.pool[e] = some h → h.remaining = 1 →
     exec (.holdExpiry e) s = .next (endHold .expired .none e s)) ∧
   (∀ (s : State) (e : Fin 16), (∀ h ∈ s.occ.pool[e], h.remaining ≠ 1) → exec (.holdExpiry e) s = .next s)) ∧
  ((∀ (s : State) (e : Fin 16) (h : HoldEntry),
     let t := { s with occ := { s.occ with pool := s.occ.pool.set e.val (some h) } }
     (t.occ.inUse = 12 → s.occ.holdWarn = false →
       takeEntry e h s = raise .holdx { t with occ := { t.occ with holdWarn := true } }) ∧
     (t.occ.inUse ≠ 12 ∨ s.occ.holdWarn = true → takeEntry e h s = t)) ∧
   (∀ (s : State) (e : Fin 16),
     let t := { s with occ := { s.occ with pool := s.occ.pool.set e.val none } }
     (t.occ.inUse = 8 → s.occ.holdWarn = true →
       freeEntry e s = raise .holdx { t with occ := { t.occ with holdWarn := false } }) ∧
     (t.occ.inUse ≠ 8 ∨ s.occ.holdWarn = false → freeEntry e s = t))) ∧
  ((∀ s : State, s.occ.backlog = [] ∨ 16 - s.link.uq.length ≤ 3 → feed s = s) ∧
   (∀ (s : State) (r : BacklogRecord) (rest : List BacklogRecord), s.occ.backlog = r :: rest → 3 < 16 - s.link.uq.length →
     feed s = feed (setCtx r.carriage { s.ctx r.carriage with verdictOwed := false }
       (pushUq
         (.verdict { source := r.source, carriage := r.carriage, level := r.level, sequence := r.sequence } r.verdict r.reason
           r.adjusted r.speed)
         { s with occ := { s.occ with backlog := rest } }))))

/-- The offer of a zone after a release (R106): with no waiters it ends with the pending mark clear; with waiters and no room
it changes nothing; outside GOVERNING, with room and waiters, it marks the zone pending; with room and waiters it is the
zone's re-examination; the floor zone is never offered, and has no wait list and no pending mark. A re-examination makes a
pass and goes on from what the pass leaves, while the governor is GOVERNING, the zone has room and waiters, and each queue
more than 3 free places; where one of these fails it ends, and leaves the zone marked pending exactly when it has room and
waiters (R110, R112). A pass forwards the head of a wait list from what its entry stored (R111). The offer of a zone with one
waiter, with the governor GOVERNING, room, and more than 3 free places in each queue, places its DRIVE_MOVE, makes its
carriage MOVING, grants the claim, frees the entry and feeds the RELEASED verdict. -/
def Obligations.OfferAfterRelease : Prop :=
  ((∀ s : State, offer 64 s = s) ∧
   (∀ (s : State) (z : ZoneIndex),
     (s.occ.waits[z] = [] → offer z.castSucc s = setRecheck z false s) ∧
     (s.occ.waits[z] ≠ [] → s.hasRoom z.castSucc = false → offer z.castSucc s = s) ∧
     (s.occ.waits[z] ≠ [] → s.hasRoom z.castSucc = true → s.gov.state ≠ .governing → offer z.castSucc s = setRecheck z true s) ∧
     (s.occ.waits[z] ≠ [] → s.hasRoom z.castSucc = true → offer z.castSucc s = reexamine z s)) ∧
   (∀ (s : State) (z : Zone), releaseClaim z s =
     offer z { s with occ := { s.occ with claims := s.occ.claims.set z.val (s.claimCount z - 1) } }) ∧
   (∀ (s : State) (i : ZoneIndex), s.waitList i.castSucc = s.occ.waits[i] ∧ s.recheckOf i.castSucc = s.occ.recheck[i]) ∧
   (∀ s : State, s.waitList 64 = [] ∧ s.recheckOf 64 = false) ∧
   (∀ (s : State) (z : Zone), (s.placeAt z).capacity = 0 ∨ s.claimCount z < (s.placeAt z).capacity ↔ s.hasRoom z = true)) ∧
  (∀ (s : State) (z : ZoneIndex),
     (s.gov.state ≠ .governing ∨ s.hasRoom z.castSucc = false ∨ s.occ.waits[z] = [] ∨ 16 - s.link.dq.length ≤ 3 ∨
         16 - s.link.uq.length ≤ 3 →
       reexamine z s = setRecheck z (s.hasRoom z.castSucc && !(s.occ.waits[z]).isEmpty) s) ∧
     (∀ (e : Fin 16) (rest : List (Fin 16)) (h : HoldEntry), s.gov.state = .governing → s.hasRoom z.castSucc = true →
       s.occ.waits[z] = e :: rest → s.occ.pool[e] = some h → h.zone = z → 3 < 16 - s.link.dq.length →
       3 < 16 - s.link.uq.length →
       let x := s.ctx h.carriage
       let driven := pushDq
         (.driveMove { source := h.source, carriage := h.carriage, level := h.level, sequence := h.sequence } h.target h.speed)
         (setWaits z rest s)
       let moving := setCtx h.carriage
         { x with
           state := .moving, holdRef := none
           inFlight := some
             { source := h.source, sequence := h.sequence, level := h.level, target := h.target, targetZone := z.castSucc,
               originZone := x.zone, entry := true, pops := h.pops, push := h.push, sent := false,
               deadline := if x.moveLimit = 0 then none else some x.moveLimit } } driven
       reexamine z s = reexamine z (appendRecord
         { carriage := h.carriage, source := h.source, sequence := h.sequence, level := h.level, verdict := .released,
           reason := .none, adjusted := h.adjusted, speed := h.speed }
         (freeEntry e (grantClaim z.castSucc moving))))) ∧
  (∀ (s : State) (z : ZoneIndex) (e : Fin 16) (h : HoldEntry), s.gov.state = .governing → s.hasRoom z.castSucc = true →
     s.occ.waits[z] = [e] → s.occ.pool[e] = some h → h.zone = z → 3 < 16 - s.link.dq.length → 3 < 16 - s.link.uq.length →
     s.occ.backlog = [] →
     let t := offer z.castSucc s
     let x := s.ctx h.carriage
     let header : Header := { source := h.source, carriage := h.carriage, level := h.level, sequence := h.sequence }
     t.link.dq = s.link.dq ++ [.driveMove header h.target h.speed] ∧
     t.link.uq = s.link.uq ++
       [{ frame := .verdict header .released .none h.adjusted h.speed, answersReset := false }] ∧
     t.ctx h.carriage =
       { x with
         state := .moving, holdRef := none, verdictOwed := false
         inFlight := some
           { source := h.source, sequence := h.sequence, level := h.level, target := h.target, targetZone := z.castSucc,
             originZone := x.zone, entry := true, pops := h.pops, push := h.push, sent := false,
             deadline := if x.moveLimit = 0 then none else some x.moveLimit } } ∧
     (∀ k : Carriage, k ≠ h.carriage → t.ctx k = s.ctx k) ∧
     t.occ.claims = s.occ.claims.set z.val (s.claimCount z.castSucc + 1) ∧ t.occ.pool[e] = none ∧ t.occ.waits[z] = [] ∧
     t.occ.recheck[z] = false ∧ t.occ.backlog = [])

/-! ### Time -/

/-- The base tick (R125, R126, R128, R149): divider, sub-second count, the second update at its end, and the STOPn sample. A
base tick that ends no count (R125, R126, R139, R156): every pulse above 0 and every counting timer above 1 falls by 1, and
nothing else moves. At every base tick each enabled timer whose source ticks falls by 1, and from 1 is loaded from its preset
(R139). What a base tick brings, in full, where it completes no power-on reset (R68, R69, R113, R125, R126, R128, R134, R139,
R140, R149, R156): the counts above 1 fall by 1, and on the state so counted come the pulse decrement, the STOPn assertion,
the expiry of each timer and each deadline whose count runs out, the window evaluation of a minute update and the expiry of
each hold whose count runs out, each once, the holds in increasing index order, and otherwise in an order that is left open (a
free value, log 7). The single expiries are those of the commands of their own (log 9). The count of ticks is the model's own
(log 7). -/
def Obligations.BaseTick : Prop :=
  (∀ (s : State) (raw : Bool), ∃ t, exec (.baseTick raw) s = .next t ∧
     t.time.divider = (s.time.divider + 1) % 100 ∧
     t.time.subSecond = (if 999 ≤ s.time.subSecond then 0 else s.time.subSecond + 1) ∧
     t.time.calendar = (if 999 ≤ s.time.subSecond then s.time.calendar.advance else s.time.calendar) ∧
     t.time.timeInvalid = s.time.timeInvalid ∧
     (raw = s.gov.stopn → t.gov.stopn = raw ∧ t.gov.stopnCount = 0) ∧
     (raw ≠ s.gov.stopn → s.gov.stopnCount < 3 → t.gov.stopn = s.gov.stopn ∧ t.gov.stopnCount = s.gov.stopnCount + 1) ∧
     (raw ≠ s.gov.stopn → 3 ≤ s.gov.stopnCount → t.gov.stopn = raw ∧ t.gov.stopnCount = 0) ∧
     (∀ n : Fin 4,
       let k := s.time.timers[n]
       let due := k.enabled = true ∧ (k.source = .ms1 ∨ k.source = .ms10 ∧ (s.time.divider + 1) % 100 % 10 = 0 ∨
         k.source = .s1 ∧ 999 ≤ s.time.subSecond ∨
         k.source = .min1 ∧ 999 ≤ s.time.subSecond ∧ s.time.calendar.seconds = 0x59)
       (¬due → t.time.timers[n] = k) ∧ (due → k.counter = 1 → t.time.timers[n] = { k with counter := k.preset }) ∧
       (due → 1 < k.counter.toNat → t.time.timers[n] = { k with counter := k.counter - 1 }))) ∧
  (∀ s : State, s.gov.powerOnHold = false → s.gov.stopn = false → s.time.subSecond < 999 → (s.time.divider + 1) % 100 ≠ 0 →
     (∀ n : Fin 4, s.time.timers[n].enabled = true → s.time.timers[n].counter ≠ 1 ∧ s.time.timers[n].counter ≠ 0) →
     let ten := (s.time.divider + 1) % 10 = 0
     exec (.baseTick false) s = .next
       { s with
         freeCount := s.freeCount + 1
         time := { s.time with
           divider := (s.time.divider + 1) % 100
           subSecond := s.time.subSecond + 1
           timers := s.time.timers.map fun t =>
             if t.enabled = true ∧ (t.source = .ms1 ∨ t.source = .ms10 ∧ ten) then { t with counter := t.counter - 1 } else t }
         gov := { s.gov with stopnCount := 0, pulses := s.gov.pulses.map (· - 1) } }) ∧
  (∀ (s : State) (n : Fin 4) (c : Carriage) (e : Fin 16),
     exec (.cycleTimerExpiry n) s = .next (expireTimer n s) ∧ exec (.moveDeadlineExpiry c) s = .next (expireDeadline c s) ∧
     exec (.holdExpiry e) s = .next (expireHold e s)) ∧
  (∀ (s : State) (raw : Bool), s.gov.powerOnHold = false →
     let divider := (s.time.divider + 1) % 100
     let second : Bool := decide (999 ≤ s.time.subSecond)
     let minute : Bool := second && decide (s.time.calendar.seconds = 0x59)
     let due := fun source : TimerSource => match source with
       | .ms1 => true
       | .ms10 => decide (divider % 10 = 0)
       | .s1 => second
       | .min1 => minute
     let sample : Bool × Nat :=
       if raw = s.gov.stopn then (raw, 0) else if s.gov.stopnCount < 3 then (s.gov.stopn, s.gov.stopnCount + 1) else (raw, 0)
     let counted : State := { s with
       freeCount := s.freeCount + 1
       time := { s.time with
         divider := divider
         subSecond := if second then 0 else s.time.subSecond + 1
         calendar := if second then s.time.calendar.advance else s.time.calendar
         timers := s.time.timers.map fun k =>
           if k.enabled && due k.source && decide (1 < k.counter.toNat) then { k with counter := k.counter - 1 } else k }
       gov := { s.gov with stopn := sample.1, stopnCount := sample.2 }
       carriages := if divider = 0 then s.carriages.map fun x =>
           if x.state = .moving then
             { x with inFlight := x.inFlight.map fun r =>
                 { r with deadline := r.deadline.map fun n => if 1 < n then n - 1 else n } }
           else x
         else s.carriages
       occ := if divider = 0 then
           { s.occ with pool := s.occ.pool.map (Option.map fun h =>
               if 1 < h.remaining then { h with remaining := h.remaining - 1 } else h) }
         else s.occ }
     let effect := fun (u : State) (a : TickEvent) => match a with
       | .pulses => { u with gov := { u.gov with pulses := u.gov.pulses.map (· - 1) } }
       | .stop => (match u.gov.state with
         | .standby => u
         | .governing => haltEntry (raise .stop u)
         | .halted => raise .stop u)
       | .timer n => expireTimer n u
       | .deadline c => expireDeadline c u
       | .hold e => expireHold e u
       | .windows => evalWindows u
     let loose : List TickEvent :=
       [.pulses] ++ (if sample.1 && !s.gov.stopn then [.stop] else []) ++
       ((List.finRange 4).filter fun n =>
         s.time.timers[n].enabled && due s.time.timers[n].source && decide (s.time.timers[n].counter = 1)).map TickEvent.timer ++
       (if divider = 0 then ((List.finRange 32).filter fun c => decide ((s.ctx c).state = .moving ∧
         ∃ r ∈ (s.ctx c).inFlight, r.sent = true ∧ r.deadline = some 1)).map TickEvent.deadline else []) ++
       (if minute then [.windows] else [])
     let holds : List TickEvent :=
       if divider = 0 then
         ((List.finRange 16).filter fun e => decide (∃ h ∈ s.occ.pool[e], h.remaining = 1)).map TickEvent.hold
       else []
     ∃ order : List TickEvent, order.Perm (loose ++ holds) ∧ holds.Sublist order ∧
       exec (.baseTick raw) s = .next (order.foldl effect counted))

/-- The 100 ms tick, which is also a 10 ms tick (R68, R113, R125, R139): where no deadline, no hold and no 10 ms timer runs
out, every deadline of a MOVING carriage above 1, every hold and every enabled 10 ms timer falls by 1, and a deadline at 1
whose move is not sent stays. Where holds alone run out, each of them expires, in increasing index order, on the state so
counted; where one sent deadline or one 10 ms timer alone runs out, its expiry comes on the state so counted. The second
update advances the calendar and counts the timers with source 1 s, each loaded from its preset where it runs out (R126, R128,
R139); one that rolls the seconds is a minute update. As commands of their own: log 8. The minute update, which also counts
the timers with source 1 min (R126, R128, R134): the seconds become 00 and, unless TIME_INVALID is set, every window in use
takes the state its patterns give at the new time, the close pattern first; an entry not in use is passed over. A pattern
matches when its minute, hour and month are ANY or equal to the calendar's and its day selector names the day (R133). A change
of a window sets WINDOW and, under its alert enable, starts its pulse; each window that closes withdraws, with reason CLOSED,
the waiters of the zones that refer to it, by window, by zone and from head to tail (R117, R135). -/
def Obligations.CoarserTicks : Prop :=
  ((∀ s : State, (∀ c : Carriage, (s.ctx c).state = .moving → ∀ r ∈ (s.ctx c).inFlight, r.sent = true → r.deadline ≠ some 1) →
     (∀ e : Fin 16, ∀ h ∈ s.occ.pool[e], h.remaining ≠ 1) →
     (∀ n : Fin 4, s.time.timers[n].enabled = true → s.time.timers[n].source = .ms10 → 2 ≤ s.time.timers[n].counter.toNat) →
     ∃ t, exec .tick100ms s = .next t ∧
       (∀ c : Carriage, t.ctx c =
         (if (s.ctx c).state = .moving then
           { s.ctx c with inFlight := (s.ctx c).inFlight.map fun r =>
               { r with deadline := r.deadline.map fun n => if n ≤ 1 then n else n - 1 } }
          else s.ctx c)) ∧
       (∀ e : Fin 16, t.occ.pool[e] =
         (s.occ.pool[e]).map fun h => { h with remaining := if h.remaining ≤ 1 then h.remaining else h.remaining - 1 }) ∧
       t.occ.claims = s.occ.claims ∧ t.occ.waits = s.occ.waits ∧ t.occ.backlog = s.occ.backlog ∧ t.link = s.link ∧
       t.gov = s.gov ∧ t.table = s.table ∧ t.sources = s.sources ∧
       t.time = { s.time with
         divider := 0
         timers := s.time.timers.map fun k =>
           if k.enabled = true ∧ k.source = .ms10 then { k with counter := k.counter - 1 } else k }) ∧
   (∀ s : State,
     let counted : State := { s with
       freeCount := s.freeCount + 1
       time := { s.time with
         divider := 0
         timers := s.time.timers.map fun k =>
           if k.enabled && decide (k.source = .ms10) && decide (1 < k.counter.toNat) then { k with counter := k.counter - 1 } else k }
       carriages := s.carriages.map fun x =>
         if x.state = .moving then
           { x with inFlight := x.inFlight.map fun r => { r with deadline := r.deadline.map fun n => if 1 < n then n - 1 else n } }
         else x
       occ := { s.occ with pool := s.occ.pool.map (Option.map fun h =>
         if 1 < h.remaining then { h with remaining := h.remaining - 1 } else h) } }
     let late := fun c : Carriage => (s.ctx c).state = .moving ∧ ∃ r ∈ (s.ctx c).inFlight, r.sent = true ∧ r.deadline = some 1
     let ends := fun e : Fin 16 => ∃ h ∈ s.occ.pool[e], h.remaining = 1
     let fires := fun n : Fin 4 =>
       s.time.timers[n].enabled = true ∧ s.time.timers[n].source = .ms10 ∧ s.time.timers[n].counter = 1
     ((∀ c, ¬late c) → (∀ n, ¬fires n) → exec .tick100ms s = .next
       (((List.finRange 16).filter fun e => decide (ends e)).foldl (fun u e => endHold .expired .none e u) counted)) ∧
     (∀ c, late c → (∀ c', c' ≠ c → ¬late c') → (∀ e, ¬ends e) → (∀ n, ¬fires n) →
       exec .tick100ms s = exec (.moveDeadlineExpiry c) counted) ∧
     (∀ n, fires n → (∀ n', n' ≠ n → ¬fires n') → (∀ c, ¬late c) → (∀ e, ¬ends e) →
       exec .tick100ms s = exec (.cycleTimerExpiry n) counted)) ∧
   (∀ s : State, ∃ t, exec .secondUpdate s = .next t ∧ t.time.subSecond = 0 ∧ t.time.divider = s.time.divider ∧
     t.time.calendar = s.time.calendar.advance ∧
     (∀ n : Fin 4,
       let k := s.time.timers[n]
       let due := k.enabled = true ∧ (k.source = .s1 ∨ k.source = .min1 ∧ s.time.calendar.seconds = 0x59)
       (¬due → t.time.timers[n] = k) ∧ (due → k.counter = 1 → t.time.timers[n] = { k with counter := k.preset }) ∧
       (due → 1 < k.counter.toNat → t.time.timers[n] = { k with counter := k.counter - 1 }))) ∧
   (∀ s : State, s.time.calendar.seconds = 0x59 → exec .secondUpdate s = exec .minuteUpdate s) ∧
   (∀ s : State, s.time.calendar.seconds ≠ 0x59 →
     let counted : State := { s with
       freeCount := s.freeCount + 1
       time := { s.time with
         subSecond := 0
         calendar := s.time.calendar.advance
         timers := s.time.timers.map fun k =>
           if k.enabled && decide (k.source = .s1) && decide (1 < k.counter.toNat) then { k with counter := k.counter - 1 } else k } }
     let fires := fun n : Fin 4 => s.time.timers[n].enabled = true ∧ s.time.timers[n].source = .s1 ∧ s.time.timers[n].counter = 1
     ((∀ n, ¬fires n) → exec .secondUpdate s = .next counted) ∧
     (∀ n, fires n → (∀ n', n' ≠ n → ¬fires n') → exec .secondUpdate s = exec (.cycleTimerExpiry n) counted))) ∧
  (∀ s : State, ∃ t, exec .minuteUpdate s = .next t ∧ t.time.subSecond = 0 ∧ t.time.calendar.seconds = 0x00 ∧
     t.time.calendar = Calendar.advance { s.time.calendar with seconds := 0x59 } ∧
     (∀ n : Fin 4,
       let k := s.time.timers[n]
       let due := k.enabled = true ∧ (k.source = .s1 ∨ k.source = .min1)
       (¬due → t.time.timers[n] = k) ∧ (due → k.counter = 1 → t.time.timers[n] = { k with counter := k.preset }) ∧
       (due → 1 < k.counter.toNat → t.time.timers[n] = { k with counter := k.counter - 1 })) ∧
     (s.time.timeInvalid = true → t.time.windows = s.time.windows) ∧
     (s.time.timeInvalid = false → ∀ w : Fin 16,
       let e := s.time.windows[w]
       let now := t.time.calendar
       let matching := fun p : Pattern =>
         (p.minute = 0xFF ∨ p.minute = now.minutes) ∧ (p.hour = 0xFF ∨ p.hour = now.hours) ∧
         (p.month = 0xFF ∨ p.month = now.month) ∧
         (p.kind = 0x00 → p.value = 0xFF ∨ p.value = now.day) ∧ (p.kind ≠ 0x00 → p.value &&& now.weekday ≠ 0)
       (e.inUse = false → t.time.windows[w] = e) ∧
       (e.inUse = true →
         (matching e.closePattern → t.time.windows[w] = { e with isOpen := false }) ∧
         (¬matching e.closePattern → matching e.openPattern → t.time.windows[w] = { e with isOpen := true }) ∧
         (¬matching e.closePattern → ¬matching e.openPattern → t.time.windows[w] = e))) ∧
     (let changed := ∃ w : Fin 16, t.time.windows[w].isOpen ≠ s.time.windows[w].isOpen
      (changed → t.gov.flags.getLsbD 7 = true ∧
        t.gov.pulses[(0 : Fin 5)] = (if s.gov.alertEnables.getLsbD 7 then 8 else s.gov.pulses[(0 : Fin 5)])) ∧
      (¬changed → t.gov.flags.getLsbD 7 = s.gov.flags.getLsbD 7 ∧ t.gov.pulses[(0 : Fin 5)] = s.gov.pulses[(0 : Fin 5)])) ∧
     (let closing := (List.finRange 16).filter fun w => s.time.windows[w].isOpen && !t.time.windows[w].isOpen
      let zonesOf := fun w : Fin 16 => (List.finRange 64).filter fun i => match s.table.descriptors[i] with
        | .place p => decide (p.window = some w)
        | _ => false
      let withdrawn := closing.foldl (fun u w => (zonesOf w).foldl (fun u (i : ZoneIndex) =>
        (u.occ.waits[i]).foldl (fun u e => endHold .withdrawn .closed e u) u) u) s
      t.occ = withdrawn.occ ∧ t.carriages = withdrawn.carriages ∧ t.link.uq = withdrawn.link.uq))

/-- One second added to a valid calendar (R127, R128): the time of day advances by one second and wraps at midnight, where the
weekday and the day advance together; the day wraps at the month's length, the month at 12 and the year at 99; and the
calendar stays valid: every byte but the weekday is BCD in its range, the weekday one of the seven one-hot values. A month has
31 days, April, June, September and November 30, February 29 in a year that is a multiple of 4 and 28 in any other. -/
def Obligations.CalendarAdvances : Prop :=
  let value := fun b : Byte => b.toNat / 16 * 10 + b.toNat % 16
  let length := fun month year : Nat =>
    if month ∈ [4, 6, 9, 11] then 30 else if month = 2 then (if year % 4 = 0 then 29 else 28) else 31
  (∀ c : Calendar, c.valid = true ↔
    (∀ b ∈ [c.seconds, c.minutes, c.hours, c.day, c.month, c.year], b.toNat / 16 ≤ 9 ∧ b.toNat % 16 ≤ 9) ∧
    value c.seconds ≤ 59 ∧ value c.minutes ≤ 59 ∧ value c.hours ≤ 23 ∧ c.weekday ∈ [0x01, 0x02, 0x04, 0x08, 0x10, 0x20, 0x40] ∧
    1 ≤ value c.month ∧ value c.month ≤ 12 ∧ 1 ≤ value c.day ∧ value c.day ≤ length (value c.month) (value c.year)) ∧
  (∀ c : Calendar, c.valid = true →
    let d := c.advance
    let secs := fun k : Calendar => value k.seconds + 60 * value k.minutes + 3600 * value k.hours
    let midnight := secs c = 86399
    let last := length (value c.month) (value c.year)
    d.valid = true ∧ secs d = (secs c + 1) % 86400 ∧
    (¬midnight → d.weekday = c.weekday ∧ d.day = c.day ∧ d.month = c.month ∧ d.year = c.year) ∧
    (midnight → d.weekday = (if c.weekday = 0x40 then (0x01 : Byte) else c.weekday <<< (1 : Nat)) ∧
      (value c.day < last → value d.day = value c.day + 1 ∧ d.month = c.month ∧ d.year = c.year) ∧
      (value c.day = last → value d.day = 1 ∧
        (value c.month < 12 → value d.month = value c.month + 1 ∧ d.year = c.year) ∧
        (value c.month = 12 → value d.month = 1 ∧ value d.year = (value c.year + 1) % 100))))

/-- Every step keeps the calendar valid (R127), the counts of the time base and the timers in their ranges (R125, R126, R139),
and the STOPn count below 4 (R149). Every step keeps the law of the windows: while TIME_INVALID is set every window is closed,
and an entry not in use is closed with zero patterns (R129, R132). -/
def Obligations.StepKeepsClock : Prop :=
  (∀ s t : State, s.CalendarValid → s.CountsLawful → s.DebounceLawful → step s = .next t →
     t.CalendarValid ∧ t.CountsLawful ∧ t.DebounceLawful) ∧
  (∀ s t : State, s.WindowsLawful → step s = .next t → t.WindowsLawful)

/-- A cycle timer whose counter runs out reloads and carries out its action (R14, R139, R140): EVENT sets CYCLEn; HEARTBEAT
enters DQ when more than 3 places are free and is otherwise not sent. A timer that is disabled or not at 1 does not expire
(log 9). SET_TIME loads a valid set of fields, zeroes the sub-second count and clears TIME_INVALID, without touching a window
(R130). WRITE_TIMER, step by step (R141): the counter is loaded by enabling a disabled timer, and otherwise stays. -/
def Obligations.CycleTimersAndSetTime : Prop :=
  (∀ (s : State) (n : Fin 4),
     let t := s.time.timers[n]
     let reloaded := setTimer n { t with counter := t.preset } s
     let beat := DFrame.heartbeat (match s.gov.state with | .standby => 0x00 | .governing => 0x01 | .halted => 0x02 : Byte)
       (if s.gov.flags &&& 0x01F = 0 then 0x00 else 0x01)
     (t.enabled = true → t.counter = 1 → t.action = .event →
       exec (.cycleTimerExpiry n) s = .next (raise (.cycle n) reloaded)) ∧
     (t.enabled = true → t.counter = 1 → t.action = .heartbeat → 3 < 16 - s.link.dq.length →
       exec (.cycleTimerExpiry n) s = .next (pushDq beat reloaded)) ∧
     (t.enabled = true → t.counter = 1 → t.action = .heartbeat → 16 - s.link.dq.length ≤ 3 →
       exec (.cycleTimerExpiry n) s = .next reloaded) ∧
     (t.enabled = false ∨ t.counter ≠ 1 → exec (.cycleTimerExpiry n) s = .next s)) ∧
  (∀ (s : State) (h : Header) (rid : Byte) (ops : List Byte), s.TakesU → s.Manages h → ops.length = 7 →
     let c := Instr.setTime h rid ops
     let digits := fun b : Byte => b.toNat / 16 ≤ 9 ∧ b.toNat % 16 ≤ 9
     let v := fun i : Nat => (byteAt ops i).toNat / 16 * 10 + (byteAt ops i).toNat % 16
     let length := if v 5 ∈ [4, 6, 9, 11] then 30 else if v 5 = 2 then (if v 6 % 4 = 0 then 29 else 28) else 31
     let good := (∀ i ∈ [0, 1, 2, 4, 5, 6], digits (byteAt ops i)) ∧ v 0 ≤ 59 ∧ v 1 ≤ 59 ∧ v 2 ≤ 23 ∧
       byteAt ops 3 ∈ [0x01, 0x02, 0x04, 0x08, 0x10, 0x20, 0x40] ∧ 1 ≤ v 5 ∧ v 5 ≤ 12 ∧
       1 ≤ v 4 ∧ v 4 ≤ length
     (¬good → Answers c s h 0x40 rid .badValue []) ∧
     (good → AnswersOk c h 0x40 rid s
       { setReceiver .u .idle s with time := { s.time with
           calendar := { seconds := byteAt ops 0, minutes := byteAt ops 1, hours := byteAt ops 2, weekday := byteAt ops 3,
                         day := byteAt ops 4, month := byteAt ops 5, year := byteAt ops 6 }
           subSecond := 0, timeInvalid := false } })) ∧
  (∀ (s : State) (h : Header) (rid : Byte) (ops : List Byte), s.TakesU → s.Manages h → ops.length = 6 →
     let c := Instr.writeTimer h rid ops
     let preset := byteAt ops 3 ++ byteAt ops 4
     let bad := 1 < (byteAt ops 1).toNat ∨ 3 < (byteAt ops 2).toNat ∨ preset = 0 ∨ 1 < (byteAt ops 5).toNat
     (s.gov.lock = true → Answers c s h 0x44 rid .locked []) ∧
     (s.gov.lock = false → 3 < (byteAt ops 0).toNat → Answers c s h 0x44 rid .badIndex []) ∧
     (s.gov.lock = false → (byteAt ops 0).toNat ≤ 3 → bad → Answers c s h 0x44 rid .badValue []) ∧
     (s.gov.lock = false → ¬bad → ∀ n : Fin 4, (byteAt ops 0).toNat = n.val →
       let old := s.time.timers[n]
       ∃ t : Timer, t.enabled = decide (byteAt ops 1 = 0x01) ∧
         t.source = (if byteAt ops 2 = 0x00 then .ms1 else if byteAt ops 2 = 0x01 then .ms10
           else if byteAt ops 2 = 0x02 then .s1 else .min1) ∧ t.preset = preset ∧
         t.action = (if byteAt ops 5 = 0x00 then .event else .heartbeat) ∧
         t.counter = (if old.enabled = false ∧ t.enabled = true then preset else old.counter) ∧
         AnswersOk c h 0x44 rid s (setTimer n t (setReceiver .u .idle s))))

/-- WRITE_WINDOW, step by step (R133, R135 to R137): the values of a pattern are those of R133. A write that keeps the state
only replaces the entry; one that changes it sets WINDOW, and a change to CLOSED withdraws the waiters of the zones that refer
to the window. -/
def Obligations.WriteWindowJudged : Prop :=
  ∀ (s : State) (h : Header) (rid : Byte) (ops : List Byte), s.TakesU → s.Manages h → ops.length = 13 →
    let c := Instr.writeWindow h rid ops
    let use := (byteAt ops 1).toNat
    let opening := byteAt ops 12 = 0x01
    let five := fun i : Nat => ({ minute := byteAt ops i, hour := byteAt ops (i + 1), month := byteAt ops (i + 2),
                                  kind := byteAt ops (i + 3), value := byteAt ops (i + 4) } : Pattern)
    let digits := fun (b : Byte) (lo hi : Nat) => b.toNat / 16 ≤ 9 ∧ b.toNat % 16 ≤ 9 ∧
      lo ≤ b.toNat / 16 * 10 + b.toNat % 16 ∧ b.toNat / 16 * 10 + b.toNat % 16 ≤ hi
    let allowed := fun p : Pattern =>
      (p.minute = 0xFF ∨ digits p.minute 0 59) ∧ (p.hour = 0xFF ∨ digits p.hour 0 23) ∧ (p.month = 0xFF ∨ digits p.month 1 12) ∧
      (p.kind = 0x00 ∧ (p.value = 0xFF ∨ digits p.value 1 31) ∨ p.kind = 0x01 ∧ 1 ≤ p.value.toNat ∧ p.value.toNat ≤ 0x7F)
    let bad := 1 < use ∨ (use = 1 ∧ (¬allowed (five 2) ∨ ¬allowed (five 7) ∨ five 2 = five 7 ∨
      1 < (byteAt ops 12).toNat ∨ (opening ∧ s.time.timeInvalid = true)))
    (s.gov.lock = true → Answers c s h 0x42 rid .locked []) ∧
    (s.gov.lock = false → 15 < (byteAt ops 0).toNat → Answers c s h 0x42 rid .badIndex []) ∧
    (s.gov.lock = false → (byteAt ops 0).toNat ≤ 15 → bad → Answers c s h 0x42 rid .badValue []) ∧
    (s.gov.lock = false → ¬bad → ∀ w : Fin 16, (byteAt ops 0).toNat = w.val →
      let e : WindowEntry :=
        if use = 1 then { inUse := true, openPattern := five 2, closePattern := five 7, isOpen := decide opening }
        else { inUse := false, openPattern := .zero, closePattern := .zero, isOpen := false }
      let t := setWindow w e (setReceiver .u .idle s)
      let zones := (List.finRange 64).filter fun i => match s.table.descriptors[i] with
        | .place p => decide (p.window = some w)
        | _ => false
      (e.isOpen = s.time.windows[w].isOpen → AnswersOk c h 0x42 rid s t) ∧
      (e.isOpen = true → s.time.windows[w].isOpen = false → AnswersOk c h 0x42 rid s (raise .window t)) ∧
      (e.isOpen = false → s.time.windows[w].isOpen = true →
        AnswersOk c h 0x42 rid s (zones.foldl (fun u (i : ZoneIndex) => (u.occ.waits[i]).foldl (fun u e => endHold .withdrawn .closed e u) u)
          (raise .window t))))

/-! ### Governor control -/

/-- A halt entry (R18, R152): the governor is HALTED, the halt slot filled, every DRIVE_MOVE not being sent is gone from DQ
and the rest keep their order; the flags, the configuration, the clock and what is being sent stand; with nothing to purge,
the pause states alone follow; otherwise each purged DRIVE_MOVE is undone, oldest first, then every zone marked recheck
pending is re-examined, in increasing index order, and the pause states follow. The undo of one purged move (R78): its
carriage is PARKED where it stood, an entry move's target claim is released, and a CANCELLED/HALTED record enters the backlog,
to be fed. -/
def Obligations.HaltEntry : Prop :=
  (∀ s : State,
     let t := haltEntry s
     let sending := s.link.txD = .frame
     t.gov = { s.gov with state := .halted } ∧ t.link.haltSlot = true ∧ t.link.txD = s.link.txD ∧
     t.link.dq = (if sending then s.link.dq.take 1 else []) ++
       (if sending then s.link.dq.drop 1 else s.link.dq).filter (fun f => !f.isDriveMove) ∧
     s.link.uq <+: t.link.uq ∧ t.occ.pool = s.occ.pool ∧ t.occ.waits = s.occ.waits ∧ t.time = s.time ∧ t.table = s.table ∧
     t.sources = s.sources ∧
     (let isMove := fun f : DFrame => match f with | .driveMove _ _ _ => true | _ => false
      let unsent := if sending then s.link.dq.drop 1 else s.link.dq
      let halted := { s with
        gov := { s.gov with state := .halted }
        link := { s.link with
          haltSlot := true, dq := (if sending then s.link.dq.take 1 else []) ++ unsent.filter fun f => !isMove f } }
      let undone := (unsent.filter isMove).foldl undoPurged halted
      (unsent.filter isMove = [] → t = evalPauses
        { s with gov := { s.gov with state := .halted }, link := { s.link with haltSlot := true } }) ∧
      (unsent.filter isMove ≠ [] → t = evalPauses
        ((List.finRange 64).foldl (fun u (z : ZoneIndex) => if u.occ.recheck[z] then reexamine z u else u) undone)))) ∧
  (∀ (s : State) (h : Header) (p : Point) (v : Speed) (r : InFlight),
     let x := s.ctx h.carriage
     let parked := setCtx h.carriage { x with inFlight := none, state := .parked } s
     let record : BacklogRecord :=
       { carriage := h.carriage, source := r.source, sequence := r.sequence, level := r.level
         verdict := .cancelled, reason := .halted, adjusted := false, speed := 0 }
     x.state = .moving → x.inFlight = some r → r.source = h.source → r.sequence = h.sequence →
     (r.entry = true → undoPurged s (.driveMove h p v) = appendRecord record (releaseClaim r.targetZone parked)) ∧
     (r.entry = false → undoPurged s (.driveMove h p v) = appendRecord record parked))

/-- The STOPn transitions (R149, R150): an assertion has no effect beyond the level in STANDBY, sets STOP, and halts in
GOVERNING; a release changes the level alone. As commands they stand for the four samples (log 10). The expiry of a sent
move's deadline faults the carriage with TIMEOUT and keeps its record, position, stack and claims; the TIMEOUT flag is set,
and a set TIMEOUT_HALT halts a GOVERNING part (R69, R150). A record not marked sent does not expire (R68); the command's
condition is log 9. -/
def Obligations.StopnAndTimeoutCauses : Prop :=
  (∀ s : State,
     let asserted := { s with gov := { s.gov with stopn := true, stopnCount := 0 } }
     (s.gov.stopn = false →
       (s.gov.state = .standby → exec .stopnAssertion s = .next asserted) ∧
       (s.gov.state = .governing → exec .stopnAssertion s = .next (haltEntry (raise .stop asserted))) ∧
       (s.gov.state = .halted → exec .stopnAssertion s = .next (raise .stop asserted))) ∧
     (s.gov.stopn = true →
       exec .stopnRelease s = .next { s with gov := { s.gov with stopn := false, stopnCount := 0 } })) ∧
  (∀ (s : State) (c : Carriage) (r : InFlight), (s.ctx c).state = .moving → (s.ctx c).inFlight = some r →
     let t := raise .timeout (setCtx c
       { s.ctx c with state := .faulted, faultCause := some .timeout, reported := none,
                      inFlight := some { r with deadline := none } } s)
     (r.sent = true → r.deadline = some 1 →
       ((s.gov.state ≠ .governing ∨ s.gov.haltEnables.getLsbD 2 = false) → exec (.moveDeadlineExpiry c) s = .next t) ∧
       (s.gov.state = .governing → s.gov.haltEnables.getLsbD 2 = true → exec (.moveDeadlineExpiry c) s = .next (haltEntry t))) ∧
     (r.sent = false ∨ r.deadline ≠ some 1 → exec (.moveDeadlineExpiry c) s = .next s))

/-- The flags, their alert enables and the pulses stand at the places of R153 and R156. A flag is set by its event; a
pulse-type flag whose alert enable is set starts its pulse at 8; a pulse count at 1 ends (R153, R156, log 9). ALERTn is low
exactly while a level-type flag has its enable or a pulse runs (R155). CLEAR_FLAGS clears the flags its mask names and nothing
else (R154). SET_ALERT replaces all enables together, ends the pulses whose enable it clears and begins none (R157). -/
def Obligations.FlagsAndAlerts : Prop :=
  (let bit := fun f : Flag => match f with
     | .stop => 0 | .edge => 1 | .contact => 2 | .timeout => 3 | .stray => 4 | .holdx => 5 | .linkerr => 6 | .window => 7
     | .cycle n => 8 + n.val
   (∀ (g : Governor) (f : Flag), g.flag f = g.flags.getLsbD (bit f) ∧ g.alertEnabled f = g.alertEnables.getLsbD (bit f)) ∧
   (∀ f : Flag, f.pulse = match f with | .window => some 0 | .cycle n => some n.succ | _ => none) ∧
   (∀ (s : State) (f : Flag), raise f s =
     { s with gov := { s.gov with flags := (s.gov.raise f).flags, pulses := (s.gov.raise f).pulses } })) ∧
  ((∀ (g : Governor) (f f' : Flag), (g.raise f).flag f' = (g.flag f' || decide (f' = f))) ∧
   (∀ (g : Governor) (f : Flag) (p : Fin 5), f.pulse = some p → g.alertEnabled f = true → (g.raise f).pulses = g.pulses.set p.val 8) ∧
   (∀ (g : Governor) (f : Flag), (f.pulse = none ∨ g.alertEnabled f = false) → (g.raise f).pulses = g.pulses) ∧
   (∀ g : Governor, g.alertLow = true ↔
     (∃ i : Fin 7, g.flags.getLsbD i.val = true ∧ g.alertEnables.getLsbD i.val = true) ∨ ∃ p : Fin 5, 0 < g.pulses[p]) ∧
   (∀ (s : State) (p : Fin 5), s.gov.pulses[p] = 1 →
     exec (.alertPulseEnd p) s = .next { s with gov := { s.gov with pulses := s.gov.pulses.set p.val 0 } })) ∧
  (∀ (s : State) (h : Header) (rid b0 b1 : Byte), s.TakesU → s.Manages h →
     ∃ flags : BitVec 12,
       (∀ i : Fin 12, flags.getLsbD i.val = (s.gov.flags.getLsbD i.val && !(b0 ++ b1).getLsbD i.val)) ∧
       AnswersOk (.clearFlags h rid [b0, b1]) h 0x02 rid s
         { setReceiver .u .idle s with gov := { s.gov with flags := flags } }) ∧
  (∀ (s : State) (h : Header) (rid b0 b1 b2 : Byte), s.TakesU → s.Manages h →
     let c := Instr.setAlert h rid [b0, b1, b2]
     let bad := 16 ≤ b0.toNat ∨ 16 ≤ b2.toNat
     (s.gov.lock = true → Answers c s h 0x03 rid .locked []) ∧
     (s.gov.lock = false → bad → Answers c s h 0x03 rid .badValue []) ∧
     (s.gov.lock = false → ¬bad → ∃ pulses : Vector Nat 5,
       (∀ p : Fin 5, pulses[p] = (if (b0 ++ b1).getLsbD (7 + p.val) then s.gov.pulses[p] else 0)) ∧
       AnswersOk c h 0x03 rid s
         { setReceiver .u .idle s with
           gov := { s.gov with alertEnables := (b0 ++ b1).setWidth 12, haltEnables := b2.setWidth 4, pulses := pulses } }))

/-- Every step keeps the law of the alert line: a pulse runs for at most 8 ticks and only under its enable, so ALERTn is low
only while some alert enable is set (R155, R156). -/
def Obligations.StepKeepsAlertLaw : Prop :=
  (∀ s t : State, s.PulsesLawful → step s = .next t → t.PulsesLawful) ∧
  (∀ s : State, s.PulsesLawful → s.gov.alertLow = true → s.gov.alertEnables ≠ 0)

/-- START, STOP, RESUME and END: their refusals and their effects (R145 to R148). The entry to GOVERNING re-examines every zone
marked recheck pending, in increasing index order, before the response is placed (R112). An END that is
taken withdraws every held move with reason END, by zone in increasing index order and from head to tail, feeding the backlog,
then leaves the governor in STANDBY, and is answered OK. It leaves every wait list and the hold pool empty, and every
carriage as it was or PARKED (R118, R148; the books of holds are premised there, BooksAgree). -/
def Obligations.GovernorRequests : Prop :=
  (∀ (s : State) (h : Header) (rid : Byte), s.TakesU → s.Manages h →
     let t := setReceiver .u .idle s
     let served := fun t : State =>
       (List.finRange 64).foldl (fun u (z : ZoneIndex) => if u.occ.recheck[z] then reexamine z u else u) t
     (s.gov.state ≠ .standby ∨ s.table.floorValid = false ∨ s.gov.stopn = true →
       Answers (.startReq h rid []) s h 0x10 rid .state []) ∧
     (s.gov.state = .standby → s.table.floorValid = true → s.gov.stopn = false →
       AnswersOk (.startReq h rid []) h 0x10 rid s (served { t with gov := { s.gov with state := .governing, flags := 0 } })) ∧
     (s.gov.state = .standby → Answers (.stopReq h rid []) s h 0x11 rid .state []) ∧
     (s.gov.state = .governing → AnswersOk (.stopReq h rid []) h 0x11 rid s (haltEntry (raise .stop t))) ∧
     (s.gov.state = .halted → AnswersOk (.stopReq h rid []) h 0x11 rid s (raise .stop t)) ∧
     (s.gov.state ≠ .halted ∨ s.gov.stopn = true → Answers (.resumeReq h rid []) s h 0x12 rid .state []) ∧
     (s.gov.state = .halted → s.gov.stopn = false →
       AnswersOk (.resumeReq h rid []) h 0x12 rid s
         (served { t with gov := { s.gov with state := .governing, flags := s.gov.flags &&& 0xFE0 } })) ∧
     (s.gov.state = .standby → Answers (.endReq h rid []) s h 0x13 rid .state []) ∧
     (s.gov.state ≠ .standby → (∃ c : Carriage, (s.ctx c).state = .moving) → Answers (.endReq h rid []) s h 0x13 rid .busy []) ∧
     (s.gov.state ≠ .standby → (∀ c : Carriage, (s.ctx c).state ≠ .moving) → (∀ z : ZoneIndex, s.occ.waits[z] = []) →
       AnswersOk (.endReq h rid []) h 0x13 rid s { t with gov := { s.gov with state := .standby } }) ∧
     (s.gov.state ≠ .standby → (∀ c : Carriage, (s.ctx c).state ≠ .moving) →
       let withdrawn := (List.finRange 64).foldl (fun u (z : ZoneIndex) =>
         (u.occ.waits[z]).foldl (fun u e => endHold .withdrawn .end_ e u) u) t
       AnswersOk (.endReq h rid []) h 0x13 rid s { withdrawn with gov := { withdrawn.gov with state := .standby } })) ∧
  (∀ (s : State) (h : Header) (rid : Byte), s.TakesU → s.Manages h → s.BooksAgree → s.gov.state ≠ .standby →
     (∀ c : Carriage, (s.ctx c).state ≠ .moving) →
     ∃ t, exec (.endReq h rid []) s = .next t ∧ t.gov.state = .standby ∧ (∀ z : ZoneIndex, t.occ.waits[z] = []) ∧
       (∀ e : Fin 16, t.occ.pool[e] = none) ∧ t.occ.claims = s.occ.claims ∧
       (∀ c : Carriage, (t.ctx c).state = (if (s.ctx c).state = .held then .parked else (s.ctx c).state)))

/-- Every step keeps the law of STANDBY: there no carriage is MOVING or HELD (R144). The books are premised (BooksAgree). -/
def Obligations.StepKeepsStandby : Prop :=
  ∀ s t : State, s.StandbyLawful → s.BooksAgree → step s = .next t → t.StandbyLawful

/-- LOCK sets the configuration lock, whether set or clear before, and answers OK; it raises no flag and drives no ALERTn
source; any of the six locked writes taken next is answered LOCKED (R170). -/
def Obligations.LockIsSet : Prop :=
  ∀ (s : State) (h : Header) (rid : Byte), s.TakesU → s.Manages h →
    AnswersOk (.lockReq h rid []) h 0x50 rid s { setReceiver .u .idle s with gov := { s.gov with lock := true } } ∧
    ∀ t, exec (.lockReq h rid []) s = .next t →
      t.gov.lock = true ∧ t.gov.flags = s.gov.flags ∧ t.gov.alertLow = s.gov.alertLow ∧
      t.link.uq = s.link.uq ++ [{ frame := .mgmtRsp { h with level := 0 } 0x50 rid .ok [], answersReset := false }] ∧
      ∀ (r : Request) (h' : Header) (rid' : Byte) (ops : List Byte),
        r ∈ [Request.writeZone, .writeSource, .writeWindow, .writeTimer, .setAlert, .setFloor] → t.TakesU → t.Manages h' →
        ops.length = r.operandLength → Answers (r.command h' rid' ops) t h' r.code rid' .locked []

/-- Once set, the configuration lock stays set until a power-on or line reset, and the configuration it fixes stays as it is:
zone descriptors, floor, sources, window entries (in use and patterns), cycle timers (enabled, source, preset and action),
halt and alert enables; windows still open and close, and timers still count; under it the six writing requests are answered
LOCKED (R169). -/
def Obligations.LockHolds : Prop :=
  (∀ (c : Instr) (s t : State), s.gov.lock = true → c ≠ .powerOnReset → c ≠ .lineReset → exec c s = .next t →
    t.gov.lock = true ∧ t.table = s.table ∧ t.sources = s.sources ∧ t.gov.haltEnables = s.gov.haltEnables ∧
      t.gov.alertEnables = s.gov.alertEnables ∧
      (∀ w : Fin 16, t.time.windows[w] = { s.time.windows[w] with isOpen := t.time.windows[w].isOpen }) ∧
      (∀ n : Fin 4, t.time.timers[n] = { s.time.timers[n] with counter := t.time.timers[n].counter })) ∧
  (∀ (r : Request) (s : State) (h : Header) (rid : Byte) (ops : List Byte),
    r ∈ [Request.writeZone, .writeSource, .writeWindow, .writeTimer, .setAlert, .setFloor] → s.TakesU → s.Manages h →
    s.gov.lock = true → ops.length = r.operandLength → Answers (r.command h rid ops) s h r.code rid .locked [])

/-! ### Management -/

/-- The management agent's own checks, in their order, for every request of the catalogue and for every other code (R163):
DENIED, UNKNOWN, BAD_VALUE; the request is answered with its status alone and changes nothing. A MGMT_REQ given by the code of
a request of the catalogue is that request (log 19). -/
def Obligations.AgentChecks : Prop :=
  (∀ (r : Request) (s : State) (h : Header) (rid : Byte) (ops : List Byte),
    ∃ t, exec (.mgmtReq h r.code rid ops) s = .next t ∧ exec (r.command h rid ops) s = .next t) ∧
  (∀ (r : Request) (s : State) (h : Header) (rid : Byte) (ops : List Byte), s.TakesU → ops.length ≤ 38 →
    (¬s.Manages h → Answers (r.command h rid ops) s h r.code rid .denied []) ∧
    (s.Manages h → ops.length ≠ r.operandLength → Answers (r.command h rid ops) s h r.code rid .badValue [])) ∧
  (∀ (s : State) (h : Header) (code rid : Byte) (ops : List Byte), s.TakesU → ops.length ≤ 38 →
    (∀ r : Request, r.code ≠ code) →
    (¬s.Manages h → Answers (.mgmtReq h code rid ops) s h code rid .denied []) ∧
    (s.Manages h → Answers (.mgmtReq h code rid ops) s h code rid .unknown []))

/-- READ_FLOOR, READ_SOURCE, READ_TIME, READ_WINDOW and READ_TIMER answer what stands and change nothing (R25, R83, R131,
R138, R142). -/
def Obligations.TableReads : Prop :=
  ∀ (s : State) (h : Header) (rid : Byte), s.TakesU → s.Manages h →
    (let f := s.table.floorBox
     Answers (.readFloor h rid []) s h 0x21 rid .ok
       ((if s.table.floorValid then 0x01 else 0x00) :: (coordBytes f.x0 ++ coordBytes f.y0 ++ coordBytes f.x1 ++ coordBytes f.y1))) ∧
    (∀ b : Byte, 7 < b.toNat → Answers (.readSource h rid [b]) s h 0x29 rid .badIndex []) ∧
    (∀ (b : Byte) (i : Source), b.toNat = i.val → Answers (.readSource h rid [b]) s h 0x29 rid .ok
      [if s.sources[i].enabled then 0x01 else 0x00, BitVec.ofNat 8 (s.sources[i].ceiling).val,
       if s.sources[i].mayManage then 0x01 else 0x00]) ∧
    (let k := s.time.calendar
     Answers (.readTime h rid []) s h 0x41 rid .ok
       [k.seconds, k.minutes, k.hours, k.weekday, k.day, k.month, k.year, if s.time.timeInvalid then 0x01 else 0x00]) ∧
    (∀ b : Byte, 15 < b.toNat → Answers (.readWindow h rid [b]) s h 0x43 rid .badIndex []) ∧
    (∀ (b : Byte) (w : Fin 16), b.toNat = w.val →
      let e := s.time.windows[w]
      let five := fun p : Pattern => [p.minute, p.hour, p.month, p.kind, p.value]
      Answers (.readWindow h rid [b]) s h 0x43 rid .ok
        ((if e.inUse then 0x01 else 0x00) ::
          (five e.openPattern ++ five e.closePattern ++ [if e.isOpen then 0x01 else 0x00]))) ∧
    (∀ b : Byte, 3 < b.toNat → Answers (.readTimer h rid [b]) s h 0x45 rid .badIndex []) ∧
    (∀ (b : Byte) (n : Fin 4), b.toNat = n.val →
      let t := s.time.timers[n]
      Answers (.readTimer h rid [b]) s h 0x45 rid .ok
        ((if t.enabled then 0x01 else 0x00) ::
          (match t.source with | .ms1 => 0x00 | .ms10 => 0x01 | .s1 => 0x02 | .min1 => 0x03) ::
          (wordBytes t.preset ++ ((match t.action with | .event => 0x00 | .heartbeat => 0x01) :: wordBytes t.counter))))

/-- READ_STATUS, READ_ALERT, READ_ZONE, READ_CARRIAGE, FIND_TAG, READ_WAITLIST and READ_OCCUPANCY answer what stands and
change nothing (R52, R63 to R65, R122, R123, R158, R167). -/
def Obligations.StateReads : Prop :=
  ∀ (s : State) (h : Header) (rid : Byte), s.TakesU → s.Manages h →
    let bit := fun (b : Bool) (n : Nat) => if b then n else 0
    let pulse := fun (p : Fin 5) => decide (0 < s.gov.pulses[p])
    (Answers (.readStatus h rid []) s h 0x01 rid .ok
      [match s.gov.state with | .standby => 0x00 | .governing => 0x01 | .halted => 0x02,
       (s.gov.flags.setWidth 16).extractLsb' 8 8, (s.gov.flags.setWidth 16).extractLsb' 0 8,
       BitVec.ofNat 8 (bit s.occ.holdWarn 1 + bit s.time.timeInvalid 2 + bit s.gov.lock 4),
       BitVec.ofNat 8 ((List.finRange 16).countP fun e => (s.occ.pool[e]).isSome), BitVec.ofNat 8 s.occ.backlog.length]) ∧
    (Answers (.readAlert h rid []) s h 0x04 rid .ok
      [(s.gov.alertEnables.setWidth 16).extractLsb' 8 8, (s.gov.alertEnables.setWidth 16).extractLsb' 0 8,
       s.gov.haltEnables.setWidth 8, BitVec.ofNat 8 (bit s.gov.alertLow 1 + bit s.gov.stopn 2),
       BitVec.ofNat 8 (bit (pulse 0) 1 + bit (pulse 1) 2 + bit (pulse 2) 4 + bit (pulse 3) 8 + bit (pulse 4) 16)]) ∧
    (∀ b : Byte, 64 < b.toNat → Answers (.readZone h rid [b]) s h 0x23 rid .badIndex []) ∧
    (∀ (b : Byte) (z : Zone), b.toNat = z.val →
      (s.descriptor z = .void → Answers (.readZone h rid [b]) s h 0x23 rid .ok (b :: 0x00 :: List.replicate 19 0x00)) ∧
      (∀ f t u, s.descriptor z = .portal f t u → Answers (.readZone h rid [b]) s h 0x23 rid .ok
        (b :: 0x03 :: BitVec.ofNat 8 f.val :: BitVec.ofNat 8 t.val :: BitVec.ofNat 8 u.val :: List.replicate 16 0x00)) ∧
      (∀ p, s.descriptor z = .place p → Answers (.readZone h rid [b]) s h 0x23 rid .ok
        (b :: (if p.guarded then 0x02 else 0x01) ::
          (coordBytes p.box.x0 ++ coordBytes p.box.y0 ++ coordBytes p.box.x1 ++ coordBytes p.box.y1 ++
           [BitVec.ofNat 8 p.guardLevel.val, BitVec.ofNat 8 p.capacity] ++ wordBytes p.speedLimit ++
           [match p.policy with | .clip => 0x00 | .refuse => 0x01, BitVec.ofNat 8 p.holdLimit,
            match p.window with | none => 0xFF | some w => BitVec.ofNat 8 w.val])))) ∧
    (∀ i : ZoneIndex, s.descriptor i.castSucc = s.table.descriptors[i]) ∧
    (Answers (.readZone h rid [0x40]) s h 0x23 rid .ok
      [0x40, 0x01, 0x80, 0x00, 0x00, 0x80, 0x00, 0x00, 0x7F, 0xFF, 0xFF, 0x7F, 0xFF, 0xFF, 0x03, 0x00, 0x00, 0x00, 0x00, 0x00,
       0xFF]) ∧
    (∀ b k : Byte, 31 < b.toNat → Answers (.readCarriage h rid [b, k]) s h 0x33 rid .badIndex []) ∧
    (∀ (b k : Byte) (c : Carriage), b.toNat = c.val →
      (1 < k.toNat → Answers (.readCarriage h rid [b, k]) s h 0x33 rid .badValue []) ∧
      let x := s.ctx c
      let byte := fun n : Nat => BitVec.ofNat 8 n
      let point := fun p : Point => coordBytes p.x ++ coordBytes p.y
      let level := fun (i : Nat) => match x.stack.reverse[i]? with
        | some r => [byte r.saved.val, byte r.portal.val]
        | none => [0x00, 0x00]
      (k = 0x00 → Answers (.readCarriage h rid [b, k]) s h 0x33 rid .ok
        ([match x.state with | .unenrolled => 0x00 | .parked => 0x01 | .moving => 0x02 | .held => 0x03 | .faulted => 0x04] ++
         point x.position ++ [byte x.zone.val, byte x.clearance.val, byte x.stack.length] ++
         (level 0 ++ level 1 ++ level 2 ++ level 3) ++ [x.scale, byte x.turn.val] ++ point x.offset ++
         [x.tag.setWidth 8, byte x.moveLimit, if x.verdictOwed then 0x01 else 0x00,
          match x.holdRef with | none => 0xFF | some e => byte e.val,
          match x.faultCause with | none => 0x00 | some .timeout => 0x01 | some .stray => 0x02])) ∧
      (k = 0x01 → Answers (.readCarriage h rid [b, k]) s h 0x33 rid .ok
        ((match x.inFlight with
          | none => List.replicate 20 0x00
          | some r =>
            [0x01, byte r.source.val, r.sequence, byte r.level.val] ++ point r.target ++
            [byte r.targetZone.val, byte r.originZone.val, if r.entry then 0x01 else 0x00, byte r.pops] ++
            (match r.push with | none => [0x00, 0x00, 0x00] | some q => [0x01, byte q.saved.val, byte q.portal.val]) ++
            (match r.deadline with | none => [0x00, 0x00] | some n => [0x01, byte n]) ++
            [if r.sent then 0x01 else 0x00]) ++
         (match x.reported with | none => List.replicate 7 0x00 | some p => 0x01 :: point p)))) ∧
    (∀ b : Byte, 127 < b.toNat → Answers (.findTag h rid [b]) s h 0x34 rid .badValue []) ∧
    (∀ b : Byte, b.toNat ≤ 127 →
      let found := (List.finRange 32).filter fun c => decide ((s.ctx c).state ≠ .unenrolled ∧ (s.ctx c).tag.toNat = b.toNat)
      Answers (.findTag h rid [b]) s h 0x34 rid .ok
        (BitVec.ofNat 8 found.length :: found.map fun c => BitVec.ofNat 8 c.val)) ∧
    (∀ b : Byte, 63 < b.toNat → Answers (.readWaitlist h rid [b]) s h 0x38 rid .badIndex []) ∧
    (∀ (b : Byte) (z : ZoneIndex), b.toNat = z.val →
      Answers (.readWaitlist h rid [b]) s h 0x38 rid .ok
        (BitVec.ofNat 8 (s.occ.waits[z]).length :: (if s.occ.recheck[z] then 0x01 else 0x00) ::
          (s.occ.waits[z]).flatMap fun e => match s.occ.pool[e] with
            | some g => [BitVec.ofNat 8 (g.carriage.val + bit g.clipped 0x80), BitVec.ofNat 8 g.remaining]
            | none => [])) ∧
    (∀ b : Byte, 64 < b.toNat → Answers (.readOccupancy h rid [b]) s h 0x39 rid .badIndex []) ∧
    (∀ (b : Byte) (z : Zone), b.toNat = z.val →
      let claimants := (List.finRange 32).filter fun c => decide ((s.ctx c).state ≠ .unenrolled ∧
        ((s.ctx c).zone = z ∨ ∃ r ∈ (s.ctx c).inFlight, r.entry = true ∧ r.targetZone = z))
      Answers (.readOccupancy h rid [b]) s h 0x39 rid .ok
        (BitVec.ofNat 8 (s.claimCount z) :: BitVec.ofNat 8 (s.waitList z).length ::
          (if s.recheckOf z then 0x01 else 0x00) :: claimants.map fun c => BitVec.ofNat 8 c.val))
end

