-- ==== Sys2Proof/Laws/State.lean ====
section
/-! SUPPORT. One lemma for each field of the state under each named update, so that no proof unfolds a record update. -/

namespace Sys2Proof.Machine

@[simp] theorem setCtx_link (c : Carriage) (x : Context) (s : State) : (setCtx c x s).link = s.link := rfl
@[simp] theorem setCtx_sources (c : Carriage) (x : Context) (s : State) : (setCtx c x s).sources = s.sources := rfl
@[simp] theorem setCtx_table (c : Carriage) (x : Context) (s : State) : (setCtx c x s).table = s.table := rfl
@[simp] theorem setCtx_carriages (c : Carriage) (x : Context) (s : State) :
    (setCtx c x s).carriages = s.carriages.set c.val x := rfl
@[simp] theorem setCtx_occ (c : Carriage) (x : Context) (s : State) : (setCtx c x s).occ = s.occ := rfl
@[simp] theorem setCtx_time (c : Carriage) (x : Context) (s : State) : (setCtx c x s).time = s.time := rfl
@[simp] theorem setCtx_gov (c : Carriage) (x : Context) (s : State) : (setCtx c x s).gov = s.gov := rfl
@[simp] theorem setCtx_wireU (c : Carriage) (x : Context) (s : State) : (setCtx c x s).wireU = s.wireU := rfl
@[simp] theorem setCtx_wireD (c : Carriage) (x : Context) (s : State) : (setCtx c x s).wireD = s.wireD := rfl
@[simp] theorem setCtx_freeCount (c : Carriage) (x : Context) (s : State) : (setCtx c x s).freeCount = s.freeCount := rfl
@[simp] theorem setCtx_pending (c : Carriage) (x : Context) (s : State) : (setCtx c x s).pending = s.pending := rfl

@[simp] theorem grantClaim_link (z : Zone) (s : State) : (grantClaim z s).link = s.link := rfl
@[simp] theorem grantClaim_sources (z : Zone) (s : State) : (grantClaim z s).sources = s.sources := rfl
@[simp] theorem grantClaim_table (z : Zone) (s : State) : (grantClaim z s).table = s.table := rfl
@[simp] theorem grantClaim_carriages (z : Zone) (s : State) : (grantClaim z s).carriages = s.carriages := rfl
@[simp] theorem grantClaim_occ (z : Zone) (s : State) :
    (grantClaim z s).occ = { s.occ with claims := s.occ.claims.set z.val (s.claimCount z + 1) } := rfl
@[simp] theorem grantClaim_time (z : Zone) (s : State) : (grantClaim z s).time = s.time := rfl
@[simp] theorem grantClaim_gov (z : Zone) (s : State) : (grantClaim z s).gov = s.gov := rfl
@[simp] theorem grantClaim_wireU (z : Zone) (s : State) : (grantClaim z s).wireU = s.wireU := rfl
@[simp] theorem grantClaim_wireD (z : Zone) (s : State) : (grantClaim z s).wireD = s.wireD := rfl
@[simp] theorem grantClaim_freeCount (z : Zone) (s : State) : (grantClaim z s).freeCount = s.freeCount := rfl
@[simp] theorem grantClaim_pending (z : Zone) (s : State) : (grantClaim z s).pending = s.pending := rfl

@[simp] theorem dropClaim_link (z : Zone) (s : State) : (dropClaim z s).link = s.link := rfl
@[simp] theorem dropClaim_sources (z : Zone) (s : State) : (dropClaim z s).sources = s.sources := rfl
@[simp] theorem dropClaim_table (z : Zone) (s : State) : (dropClaim z s).table = s.table := rfl
@[simp] theorem dropClaim_carriages (z : Zone) (s : State) : (dropClaim z s).carriages = s.carriages := rfl
@[simp] theorem dropClaim_occ (z : Zone) (s : State) :
    (dropClaim z s).occ = { s.occ with claims := s.occ.claims.set z.val (s.claimCount z - 1) } := rfl
@[simp] theorem dropClaim_time (z : Zone) (s : State) : (dropClaim z s).time = s.time := rfl
@[simp] theorem dropClaim_gov (z : Zone) (s : State) : (dropClaim z s).gov = s.gov := rfl
@[simp] theorem dropClaim_wireU (z : Zone) (s : State) : (dropClaim z s).wireU = s.wireU := rfl
@[simp] theorem dropClaim_wireD (z : Zone) (s : State) : (dropClaim z s).wireD = s.wireD := rfl
@[simp] theorem dropClaim_freeCount (z : Zone) (s : State) : (dropClaim z s).freeCount = s.freeCount := rfl
@[simp] theorem dropClaim_pending (z : Zone) (s : State) : (dropClaim z s).pending = s.pending := rfl

@[simp] theorem setWaits_link (z : ZoneIndex) (l : List (Fin 16)) (s : State) : (setWaits z l s).link = s.link := rfl
@[simp] theorem setWaits_sources (z : ZoneIndex) (l : List (Fin 16)) (s : State) : (setWaits z l s).sources = s.sources := rfl
@[simp] theorem setWaits_table (z : ZoneIndex) (l : List (Fin 16)) (s : State) : (setWaits z l s).table = s.table := rfl
@[simp] theorem setWaits_carriages (z : ZoneIndex) (l : List (Fin 16)) (s : State) :
    (setWaits z l s).carriages = s.carriages := rfl
@[simp] theorem setWaits_occ (z : ZoneIndex) (l : List (Fin 16)) (s : State) :
    (setWaits z l s).occ = { s.occ with waits := s.occ.waits.set z.val l } := rfl
@[simp] theorem setWaits_time (z : ZoneIndex) (l : List (Fin 16)) (s : State) : (setWaits z l s).time = s.time := rfl
@[simp] theorem setWaits_gov (z : ZoneIndex) (l : List (Fin 16)) (s : State) : (setWaits z l s).gov = s.gov := rfl
@[simp] theorem setWaits_wireU (z : ZoneIndex) (l : List (Fin 16)) (s : State) : (setWaits z l s).wireU = s.wireU := rfl
@[simp] theorem setWaits_wireD (z : ZoneIndex) (l : List (Fin 16)) (s : State) : (setWaits z l s).wireD = s.wireD := rfl
@[simp] theorem setWaits_freeCount (z : ZoneIndex) (l : List (Fin 16)) (s : State) :
    (setWaits z l s).freeCount = s.freeCount := rfl
@[simp] theorem setWaits_pending (z : ZoneIndex) (l : List (Fin 16)) (s : State) : (setWaits z l s).pending = s.pending := rfl

@[simp] theorem setRecheck_link (z : ZoneIndex) (b : Bool) (s : State) : (setRecheck z b s).link = s.link := rfl
@[simp] theorem setRecheck_sources (z : ZoneIndex) (b : Bool) (s : State) : (setRecheck z b s).sources = s.sources := rfl
@[simp] theorem setRecheck_table (z : ZoneIndex) (b : Bool) (s : State) : (setRecheck z b s).table = s.table := rfl
@[simp] theorem setRecheck_carriages (z : ZoneIndex) (b : Bool) (s : State) : (setRecheck z b s).carriages = s.carriages := rfl
@[simp] theorem setRecheck_occ (z : ZoneIndex) (b : Bool) (s : State) :
    (setRecheck z b s).occ = { s.occ with recheck := s.occ.recheck.set z.val b } := rfl
@[simp] theorem setRecheck_time (z : ZoneIndex) (b : Bool) (s : State) : (setRecheck z b s).time = s.time := rfl
@[simp] theorem setRecheck_gov (z : ZoneIndex) (b : Bool) (s : State) : (setRecheck z b s).gov = s.gov := rfl
@[simp] theorem setRecheck_wireU (z : ZoneIndex) (b : Bool) (s : State) : (setRecheck z b s).wireU = s.wireU := rfl
@[simp] theorem setRecheck_wireD (z : ZoneIndex) (b : Bool) (s : State) : (setRecheck z b s).wireD = s.wireD := rfl
@[simp] theorem setRecheck_freeCount (z : ZoneIndex) (b : Bool) (s : State) : (setRecheck z b s).freeCount = s.freeCount := rfl
@[simp] theorem setRecheck_pending (z : ZoneIndex) (b : Bool) (s : State) : (setRecheck z b s).pending = s.pending := rfl

@[simp] theorem raise_link (f : Flag) (s : State) : (raise f s).link = s.link := rfl
@[simp] theorem raise_sources (f : Flag) (s : State) : (raise f s).sources = s.sources := rfl
@[simp] theorem raise_table (f : Flag) (s : State) : (raise f s).table = s.table := rfl
@[simp] theorem raise_carriages (f : Flag) (s : State) : (raise f s).carriages = s.carriages := rfl
@[simp] theorem raise_occ (f : Flag) (s : State) : (raise f s).occ = s.occ := rfl
@[simp] theorem raise_time (f : Flag) (s : State) : (raise f s).time = s.time := rfl
@[simp] theorem raise_gov (f : Flag) (s : State) : (raise f s).gov = s.gov.raise f := rfl
@[simp] theorem raise_wireU (f : Flag) (s : State) : (raise f s).wireU = s.wireU := rfl
@[simp] theorem raise_wireD (f : Flag) (s : State) : (raise f s).wireD = s.wireD := rfl
@[simp] theorem raise_freeCount (f : Flag) (s : State) : (raise f s).freeCount = s.freeCount := rfl
@[simp] theorem raise_pending (f : Flag) (s : State) : (raise f s).pending = s.pending := rfl

@[simp] theorem setWindow_link (w : Fin 16) (e : WindowEntry) (s : State) : (setWindow w e s).link = s.link := rfl
@[simp] theorem setWindow_sources (w : Fin 16) (e : WindowEntry) (s : State) : (setWindow w e s).sources = s.sources := rfl
@[simp] theorem setWindow_table (w : Fin 16) (e : WindowEntry) (s : State) : (setWindow w e s).table = s.table := rfl
@[simp] theorem setWindow_carriages (w : Fin 16) (e : WindowEntry) (s : State) : (setWindow w e s).carriages = s.carriages := rfl
@[simp] theorem setWindow_occ (w : Fin 16) (e : WindowEntry) (s : State) : (setWindow w e s).occ = s.occ := rfl
@[simp] theorem setWindow_time (w : Fin 16) (e : WindowEntry) (s : State) :
    (setWindow w e s).time = { s.time with windows := s.time.windows.set w.val e } := rfl
@[simp] theorem setWindow_gov (w : Fin 16) (e : WindowEntry) (s : State) : (setWindow w e s).gov = s.gov := rfl
@[simp] theorem setWindow_wireU (w : Fin 16) (e : WindowEntry) (s : State) : (setWindow w e s).wireU = s.wireU := rfl
@[simp] theorem setWindow_wireD (w : Fin 16) (e : WindowEntry) (s : State) : (setWindow w e s).wireD = s.wireD := rfl
@[simp] theorem setWindow_freeCount (w : Fin 16) (e : WindowEntry) (s : State) : (setWindow w e s).freeCount = s.freeCount := rfl
@[simp] theorem setWindow_pending (w : Fin 16) (e : WindowEntry) (s : State) : (setWindow w e s).pending = s.pending := rfl

@[simp] theorem setTimer_link (n : Fin 4) (t : Timer) (s : State) : (setTimer n t s).link = s.link := rfl
@[simp] theorem setTimer_sources (n : Fin 4) (t : Timer) (s : State) : (setTimer n t s).sources = s.sources := rfl
@[simp] theorem setTimer_table (n : Fin 4) (t : Timer) (s : State) : (setTimer n t s).table = s.table := rfl
@[simp] theorem setTimer_carriages (n : Fin 4) (t : Timer) (s : State) : (setTimer n t s).carriages = s.carriages := rfl
@[simp] theorem setTimer_occ (n : Fin 4) (t : Timer) (s : State) : (setTimer n t s).occ = s.occ := rfl
@[simp] theorem setTimer_time (n : Fin 4) (t : Timer) (s : State) :
    (setTimer n t s).time = { s.time with timers := s.time.timers.set n.val t } := rfl
@[simp] theorem setTimer_gov (n : Fin 4) (t : Timer) (s : State) : (setTimer n t s).gov = s.gov := rfl
@[simp] theorem setTimer_wireU (n : Fin 4) (t : Timer) (s : State) : (setTimer n t s).wireU = s.wireU := rfl
@[simp] theorem setTimer_wireD (n : Fin 4) (t : Timer) (s : State) : (setTimer n t s).wireD = s.wireD := rfl
@[simp] theorem setTimer_freeCount (n : Fin 4) (t : Timer) (s : State) : (setTimer n t s).freeCount = s.freeCount := rfl
@[simp] theorem setTimer_pending (n : Fin 4) (t : Timer) (s : State) : (setTimer n t s).pending = s.pending := rfl

@[simp] theorem setReceiver_sources (p : Port) (r : Receiver) (s : State) :
    (setReceiver p r s).sources = s.sources := by cases p <;> rfl
@[simp] theorem setReceiver_table (p : Port) (r : Receiver) (s : State) :
    (setReceiver p r s).table = s.table := by cases p <;> rfl
@[simp] theorem setReceiver_carriages (p : Port) (r : Receiver) (s : State) :
    (setReceiver p r s).carriages = s.carriages := by cases p <;> rfl
@[simp] theorem setReceiver_occ (p : Port) (r : Receiver) (s : State) : (setReceiver p r s).occ = s.occ := by cases p <;> rfl
@[simp] theorem setReceiver_time (p : Port) (r : Receiver) (s : State) : (setReceiver p r s).time = s.time := by cases p <;> rfl
@[simp] theorem setReceiver_gov (p : Port) (r : Receiver) (s : State) : (setReceiver p r s).gov = s.gov := by cases p <;> rfl
@[simp] theorem setReceiver_wireU (p : Port) (r : Receiver) (s : State) :
    (setReceiver p r s).wireU = s.wireU := by cases p <;> rfl
@[simp] theorem setReceiver_wireD (p : Port) (r : Receiver) (s : State) :
    (setReceiver p r s).wireD = s.wireD := by cases p <;> rfl
@[simp] theorem setReceiver_freeCount (p : Port) (r : Receiver) (s : State) :
    (setReceiver p r s).freeCount = s.freeCount := by cases p <;> rfl
@[simp] theorem setReceiver_pending (p : Port) (r : Receiver) (s : State) :
    (setReceiver p r s).pending = s.pending := by cases p <;> rfl
@[simp] theorem setReceiver_u_link (r : Receiver) (s : State) : (setReceiver .u r s).link = { s.link with rxU := r } := rfl
@[simp] theorem setReceiver_d_link (r : Receiver) (s : State) : (setReceiver .d r s).link = { s.link with rxD := r } := rfl
@[simp] theorem setReceiver_link_pausedU (p : Port) (r : Receiver) (s : State) :
    (setReceiver p r s).link.pausedU = s.link.pausedU := by cases p <;> rfl
@[simp] theorem setReceiver_link_pausedD (p : Port) (r : Receiver) (s : State) :
    (setReceiver p r s).link.pausedD = s.link.pausedD := by cases p <;> rfl
@[simp] theorem setReceiver_link_stoppedU (p : Port) (r : Receiver) (s : State) :
    (setReceiver p r s).link.stoppedU = s.link.stoppedU := by cases p <;> rfl
@[simp] theorem setReceiver_link_stoppedD (p : Port) (r : Receiver) (s : State) :
    (setReceiver p r s).link.stoppedD = s.link.stoppedD := by cases p <;> rfl
@[simp] theorem setReceiver_link_sendingU (p : Port) (r : Receiver) (s : State) :
    (setReceiver p r s).link.sendingU = s.link.sendingU := by cases p <;> rfl
@[simp] theorem setReceiver_link_txD (p : Port) (r : Receiver) (s : State) :
    (setReceiver p r s).link.txD = s.link.txD := by cases p <;> rfl
@[simp] theorem setReceiver_link_dq (p : Port) (r : Receiver) (s : State) :
    (setReceiver p r s).link.dq = s.link.dq := by cases p <;> rfl
@[simp] theorem setReceiver_link_uq (p : Port) (r : Receiver) (s : State) :
    (setReceiver p r s).link.uq = s.link.uq := by cases p <;> rfl
@[simp] theorem setReceiver_link_haltSlot (p : Port) (r : Receiver) (s : State) :
    (setReceiver p r s).link.haltSlot = s.link.haltSlot := by cases p <;> rfl

@[simp] theorem Governor.raise_state (f : Flag) (g : Governor) : (g.raise f).state = g.state := rfl
@[simp] theorem Governor.raise_haltEnables (f : Flag) (g : Governor) : (g.raise f).haltEnables = g.haltEnables := rfl
@[simp] theorem Governor.raise_alertEnables (f : Flag) (g : Governor) : (g.raise f).alertEnables = g.alertEnables := rfl
@[simp] theorem Governor.raise_stopn (f : Flag) (g : Governor) : (g.raise f).stopn = g.stopn := rfl
@[simp] theorem Governor.raise_stopnCount (f : Flag) (g : Governor) : (g.raise f).stopnCount = g.stopnCount := rfl
@[simp] theorem Governor.raise_lock (f : Flag) (g : Governor) : (g.raise f).lock = g.lock := rfl
@[simp] theorem Governor.raise_softPending (f : Flag) (g : Governor) : (g.raise f).softPending = g.softPending := rfl
@[simp] theorem Governor.raise_cause (f : Flag) (g : Governor) : (g.raise f).cause = g.cause := rfl
@[simp] theorem Governor.raise_powerOnHold (f : Flag) (g : Governor) : (g.raise f).powerOnHold = g.powerOnHold := rfl
@[simp] theorem Governor.raise_lineHold (f : Flag) (g : Governor) : (g.raise f).lineHold = g.lineHold := rfl
@[simp] theorem Governor.raise_flags (f : Flag) (g : Governor) : (g.raise f).flags = g.flags ||| (1#12 <<< f.bit) := rfl

end Sys2Proof.Machine
end

