-- ==== Sys2Proof/Laws/Arrival.lean ====
section
/-! SUPPORT. Steps, and the arrival of a frame: when the checks of R7 and R8 hand it on, and how a management request of the
catalogue reaches its owner. -/

namespace Sys2Proof.Machine

/-! ### Steps -/

/-- An empty queue idles (log 12). -/
theorem step_of_pending_nil {s : State} (h : s.pending = []) : step s = .next s := by simp [step, h]

/-- The front command runs on the queue's rest. -/
theorem step_of_pending_cons {s : State} {c : Instr} {rest : List Instr} (h : s.pending = c :: rest) :
    step s = exec c { s with pending := rest } := by simp [step, h]

/-- Every command is taken: none faults and none is refused. -/
theorem exec_next (c : Instr) (s : State) : ∃ t, exec c s = .next t := by cases c <;> exact ⟨_, rfl⟩

/-- A property that every command keeps, and that the queue of commands does not touch, every step keeps. -/
theorem step_keeps {P : State → Prop} (hq : ∀ s q, P s → P { s with pending := q })
    (hc : ∀ c s t, P s → exec c s = .next t → P t) {s t : State} (hs : P s) (h : step s = .next t) : P t := by
  cases hp : s.pending with
  | nil => rw [step_of_pending_nil hp] at h; cases h; exact hs
  | cons c rest => rw [step_of_pending_cons hp] at h; exact hc _ _ _ (hq _ _ hs) h

/-! ### Arrival -/

/-- A frame that a peer can send arrives on port U. -/
theorem receive_u {s : State} {f : InFrame} (hs : s.TakesU) (hf : f.fits = true) (hk : kindAccepted .u f.kind = true) :
    receive .u f s = handOn .u f (setReceiver .u .idle s) := by
  obtain ⟨⟨hr, hp⟩, hd, hu⟩ := hs
  have hr' : (setReceiver .u .idle s).inReset = false := by simpa [State.inReset] using hr
  have hroom : (setReceiver .u .idle s).roomFor .u = true := by
    simp only [State.roomFor, State.freeDq, State.freeUq, Config.queuePlaces, setReceiver_link_dq, setReceiver_link_uq,
      Bool.and_eq_true, decide_eq_true_eq]
    omega
  simp [receive, completeFrame, admitFrame, hf, hk, hr', hp, hroom]

/-- A frame that a peer can send arrives on port D. -/
theorem receive_d {s : State} {f : InFrame} (hs : s.TakesD) (hf : f.fits = true) (hk : kindAccepted .d f.kind = true) :
    receive .d f s = handOn .d f (setReceiver .d .idle s) := by
  obtain ⟨⟨hr, hp⟩, hu⟩ := hs
  have hr' : (setReceiver .d .idle s).inReset = false := by simpa [State.inReset] using hr
  have hroom : (setReceiver .d .idle s).roomFor .d = true := by
    simp only [State.roomFor, State.freeUq, Config.queuePlaces, setReceiver_link_uq, decide_eq_true_eq]
    omega
  simp [receive, completeFrame, admitFrame, hf, hk, hr', hp, hroom]

/-! ### Management requests -/

/-- A code of the catalogue names its request. -/
theorem Request.ofCode_code (r : Request) : Request.ofCode r.code = some r := by cases r <;> decide

/-- Every request of the catalogue is in its list. -/
theorem Request.mem_all (r : Request) : r ∈ Request.all := by cases r <;> decide

/-- A code that no request has names none. -/
theorem Request.ofCode_none {code : Byte} (h : ∀ r : Request, r.code ≠ code) : Request.ofCode code = none := by
  simp [Request.ofCode, h]

/-- The command of a request of the catalogue is the arrival of its MGMT_REQ. -/
theorem exec_command (r : Request) (h : Header) (rid : Byte) (ops : List Byte) (s : State) :
    exec (r.command h rid ops) s = .next (receive .u (.mgmtReq h r.code rid ops) s) := by cases r <;> rfl

/-- A MGMT_REQ a peer can send is taken by the agent. -/
theorem receive_mgmtReq {s : State} {h : Header} {code rid : Byte} {ops : List Byte} (hs : s.TakesU) (hl : ops.length ≤ 38) :
    receive .u (.mgmtReq h code rid ops) s = takeMgmtReq h code rid ops (setReceiver .u .idle s) :=
  receive_u hs (by simp [InFrame.fits, InFrame.payload]; omega) rfl

/-- The source that may manage passes check 1 of R163. -/
theorem manages_iff (s : State) (h : Header) : s.sources[h.source].manages = true ↔ s.Manages h := by
  simp [SourceRecord.manages, State.Manages, and_assoc]

/-- A request of the catalogue, other than RESET, that passes the agent's checks is judged by its owner and answered. -/
theorem exec_request {s : State} {h : Header} {rid : Byte} {ops : List Byte} {r : Request} (hs : s.TakesU) (hm : s.Manages h)
    (hl : ops.length = r.operandLength) (hr : r ≠ .reset) :
    exec (r.command h rid ops) s = .next (respond h r.code rid (r.run ops (setReceiver .u .idle s)) false) := by
  have h38 : ops.length ≤ 38 := by rw [hl]; cases r <;> decide
  have hm' := (manages_iff s h).2 hm
  rw [exec_command, receive_mgmtReq hs h38]
  have hm'' : ¬(setReceiver .u .idle s).sources[h.source].manages = false := by rw [setReceiver_sources, hm']; simp
  rw [takeMgmtReq, if_neg hm'', Request.ofCode_code]
  simp [hl, hr]

/-- A request whose owner refuses it with a status changes nothing. -/
theorem answers_of_refused {s : State} {h : Header} {rid : Byte} {ops : List Byte} {r : Request} {status : Status}
    (hs : s.TakesU) (hm : s.Manages h) (hl : ops.length = r.operandLength) (hr : r ≠ .reset)
    (ha : r.run ops (setReceiver .u .idle s) = .refuse status (setReceiver .u .idle s)) :
    Answers (r.command h rid ops) s h r.code rid status [] := by
  rw [Answers, exec_request hs hm hl hr, ha]; rfl

/-- A request that reads changes nothing. -/
theorem answers_of_read {s : State} {h : Header} {rid : Byte} {ops data : List Byte} {r : Request}
    (hs : s.TakesU) (hm : s.Manages h) (hl : ops.length = r.operandLength) (hr : r ≠ .reset)
    (ha : r.run ops (setReceiver .u .idle s) = .read data (setReceiver .u .idle s)) :
    Answers (r.command h rid ops) s h r.code rid .ok data := by
  rw [Answers, exec_request hs hm hl hr, ha]; rfl

/-- A request that is taken leaves what its owner left. -/
theorem answersOk_of_ok {s t : State} {h : Header} {rid : Byte} {ops : List Byte} {r : Request}
    (hs : s.TakesU) (hm : s.Manages h) (hl : ops.length = r.operandLength) (hr : r ≠ .reset)
    (ha : r.run ops (setReceiver .u .idle s) = .ok t) :
    AnswersOk (r.command h rid ops) h r.code rid s t := by
  rw [AnswersOk, exec_request hs hm hl hr, ha]; rfl

end Sys2Proof.Machine
end

