-- ==== Sys2Proof/Laws/Bytes.lean ====
section
/-! SUPPORT. Multi-byte fields written and read back, and the header of a frame (R2, R5). -/

namespace Sys2Proof.Machine

/-- The two halves of a word make the word. -/
theorem word_join (w : BitVec 16) : w.extractLsb' 8 8 ++ w.extractLsb' 0 8 = w := by
  apply BitVec.eq_of_getLsbD_eq
  intro i hi
  simp only [BitVec.getLsbD_append, BitVec.getLsbD_extractLsb']
  by_cases h : i < 8
  · simp [h]
  · have h' : i - 8 < 8 := by omega
    simp [h, h', show 8 + (i - 8) = i by omega]

/-- The three bytes of a coordinate make the coordinate. -/
theorem coord_join (c : Coord) : c.extractLsb' 16 8 ++ c.extractLsb' 8 8 ++ c.extractLsb' 0 8 = c := by
  apply BitVec.eq_of_getLsbD_eq
  intro i hi
  simp only [BitVec.getLsbD_append, BitVec.getLsbD_extractLsb']
  by_cases h : i < 8
  · simp [h]
  · by_cases h2 : i < 16
    · have h' : i - 8 < 8 := by omega
      simp [h, h', show 8 + (i - 8) = i by omega]
    · have h' : i - 8 - 8 < 8 := by omega
      simp [h, h', show ¬i - 8 < 8 by omega, show 16 + (i - 8 - 8) = i by omega]

/-- A word in high-to-low bytes is as long as two bytes. -/
@[simp] theorem wordBytes_length (w : BitVec 16) : (wordBytes w).length = 2 := rfl

/-- A coordinate takes three bytes. -/
@[simp] theorem coordBytes_length (c : Coord) : (coordBytes c).length = 3 := rfl

/-- A word read where it was written. -/
theorem wordAt_wordBytes (before after : List Byte) (w : BitVec 16) : wordAt (before ++ (wordBytes w ++ after)) before.length = w := by
  simp only [wordAt, byteAt, wordBytes, List.getD_eq_getElem?_getD]
  rw [List.getElem?_append_right (Nat.le_refl _), List.getElem?_append_right (Nat.le_succ _)]
  simp [word_join]

/-- A coordinate read where it was written. -/
theorem coordAt_coordBytes (before after : List Byte) (c : Coord) :
    coordAt (before ++ (coordBytes c ++ after)) before.length = c := by
  simp only [coordAt, byteAt, coordBytes, List.getD_eq_getElem?_getD]
  rw [List.getElem?_append_right (Nat.le_refl _), List.getElem?_append_right (Nat.le_succ _),
    List.getElem?_append_right (Nat.le_add_right _ 2)]
  simp [coord_join]

/-- The bytes of a word made of two bytes are these two. -/
theorem wordBytes_join (a b : Byte) : wordBytes (a ++ b) = [a, b] := by
  have bit : ∀ i, (a ++ b : BitVec (8 + 8)).getLsbD i = if i < 8 then b.getLsbD i else a.getLsbD (i - 8) := fun i => by
    rw [BitVec.getLsbD_append]
  simp only [wordBytes, List.cons.injEq, and_true]
  constructor
  · refine BitVec.eq_of_getLsbD_eq fun i hi => ?_
    rw [BitVec.getLsbD_extractLsb', bit]
    simp [hi]
  · refine BitVec.eq_of_getLsbD_eq fun i hi => ?_
    rw [BitVec.getLsbD_extractLsb', bit]
    simp [hi]

/-- The bytes of a coordinate made of three bytes are these three. -/
theorem coordBytes_join (a b c : Byte) : coordBytes (a ++ b ++ c) = [a, b, c] := by
  have bit : ∀ i, (a ++ b ++ c : BitVec (8 + 8 + 8)).getLsbD i =
      if i < 8 then c.getLsbD i else if i - 8 < 8 then b.getLsbD (i - 8) else a.getLsbD (i - 8 - 8) := fun i => by
    rw [BitVec.getLsbD_append, BitVec.getLsbD_append]
  simp only [coordBytes, List.cons.injEq, and_true]
  refine ⟨?_, ?_, ?_⟩
  · refine BitVec.eq_of_getLsbD_eq fun i hi => ?_
    rw [BitVec.getLsbD_extractLsb', bit, if_neg (by omega), if_neg (by omega), show 16 + i - 8 - 8 = i by omega]
    simp [hi]
  · refine BitVec.eq_of_getLsbD_eq fun i hi => ?_
    rw [BitVec.getLsbD_extractLsb', bit, if_neg (by omega), if_pos (by omega), show 8 + i - 8 = i by omega]
    simp [hi]
  · refine BitVec.eq_of_getLsbD_eq fun i hi => ?_
    rw [BitVec.getLsbD_extractLsb', bit]
    simp [hi]

/-- Header byte 1 holds source and carriage: it reads back. -/
theorem header_byte1 (h : Header) :
    (Fin.ofNat 8 ((headerByte1 h).toNat / 32) : Source) = h.source ∧ (Fin.ofNat 32 (headerByte1 h).toNat : Carriage) = h.carriage := by
  have hs := h.source.isLt
  have hc := h.carriage.isLt
  constructor <;> apply Fin.ext <;> simp [headerByte1, byteOf, Fin.ofNat] <;> omega

/-- Header byte 2 holds level and length: both read back. -/
theorem header_byte2 (h : Header) (n : Nat) (hn : n < 64) :
    (Fin.ofNat 4 ((headerByte2 h n).toNat / 64) : Level) = h.level ∧ (headerByte2 h n).toNat % 64 = n := by
  have hl := h.level.isLt
  constructor
  · apply Fin.ext; simp [headerByte2, byteOf, Fin.ofNat]; omega
  · simp [headerByte2, byteOf]; omega

/-- Any byte is the header byte of the fields read from it. -/
theorem header_bytes_read (bytes : List Byte) :
    headerByte1 (headerAt bytes) = byteAt bytes 1 ∧ headerByte2 (headerAt bytes) ((byteAt bytes 2).toNat % 64) = byteAt bytes 2 := by
  have h1 := (byteAt bytes 1).isLt
  have h2 := (byteAt bytes 2).isLt
  constructor
  · apply BitVec.eq_of_toNat_eq; simp [headerByte1, headerAt, byteOf, Fin.ofNat]; omega
  · apply BitVec.eq_of_toNat_eq; simp [headerByte2, headerAt, byteOf, Fin.ofNat]; omega

end Sys2Proof.Machine
end

