-- ==== Sys2Proof/Laws/Internal.lean ====
section
/-! SUPPORT. What the shared operations are made of: an inductive list of internal steps, one lemma for each operation that says
it is a run of them, and what every such run keeps. A proof about an operation cites its lemma in place of its definition. -/

namespace Sys2Proof.Machine

/-- One internal step: the updates that the ends of holds, the offers of zones and the undos are made of. -/
inductive Internal : State → State → Prop
  | ctx (c : Carriage) (x : Context) (s : State) : Internal s (setCtx c x s)
  | grant (z : Zone) (s : State) (h : s.hasRoom z = true) : Internal s (grantClaim z s)
  | drop (z : Zone) (s : State) : Internal s (dropClaim z s)
  | waits (z : ZoneIndex) (l : List (Fin 16)) (s : State) : Internal s (setWaits z l s)
  | recheck (z : ZoneIndex) (b : Bool) (s : State) : Internal s (setRecheck z b s)
  | flag (f : Flag) (s : State) : Internal s (raise f s)
  | pool (p : Vector (Option HoldEntry) 16) (s : State) : Internal s { s with occ := { s.occ with pool := p } }
  | warn (b : Bool) (s : State) : Internal s { s with occ := { s.occ with holdWarn := b } }
  | drive (f : DFrame) (s : State) (h : s.dqOpen = true) : Internal s (pushDq f s)
  | report (r : BacklogRecord) (s : State) : Internal s (appendRecord r s)
  | feed (s : State) : Internal s (feed s)

/-- A run of internal steps. -/
inductive Internals : State → State → Prop
  | refl (s : State) : Internals s s
  | tail {s t u : State} (run : Internals s t) (last : Internal t u) : Internals s u

theorem Internals.of {s t : State} (h : Internal s t) : Internals s t := .tail (.refl s) h

theorem Internals.rfl {s : State} : Internals s s := .refl s

theorem Internals.trans {s t u : State} (h : Internals s t) (k : Internals t u) : Internals s u := by
  induction k with
  | refl => exact h
  | tail _ last ih => exact .tail ih last

/-- A fold of runs is a run. -/
theorem Internals.foldl {α : Type} {f : State → α → State} (h : ∀ s a, Internals s (f s a)) (l : List α) (s : State) :
    Internals s (l.foldl f s) := by
  induction l generalizing s with
  | nil => exact .rfl
  | cons a l ih => exact (h s a).trans (ih _)

/-! ### The operations as runs -/

theorem internals_setCtx (c : Carriage) (x : Context) (s : State) : Internals s (setCtx c x s) := .of (.ctx c x s)

theorem internals_modifyCtx (c : Carriage) (f : Context → Context) (s : State) : Internals s (modifyCtx c f s) := .of (.ctx c _ s)

theorem internals_evalHoldWarn (rose : Bool) (s : State) : Internals s (evalHoldWarn rose s) := by
  unfold evalHoldWarn
  split
  · exact .tail (.of (.warn true s)) (.flag _ _)
  · split
    · exact .tail (.of (.warn false s)) (.flag _ _)
    · exact .rfl

theorem internals_freeEntry (e : Fin 16) (s : State) : Internals s (freeEntry e s) :=
  .trans (.of (.pool _ s)) (internals_evalHoldWarn _ _)

theorem internals_takeEntry (e : Fin 16) (h : HoldEntry) (s : State) : Internals s (takeEntry e h s) :=
  .trans (.of (.pool _ s)) (internals_evalHoldWarn _ _)

theorem internals_appendRecord (r : BacklogRecord) (s : State) : Internals s (appendRecord r s) := .of (.report r s)

theorem internals_feed (s : State) : Internals s (feed s) := .of (.feed s)

theorem internals_endHold (v : Verdict) (r : Reason) (e : Fin 16) (s : State) : Internals s (endHold v r e s) := by
  unfold endHold
  split
  · exact .rfl
  · rename_i h _
    have run : Internals s (appendRecord (h.report v r) (modifyCtx h.carriage (fun x => { x with state := .parked, holdRef := none })
        (freeEntry e (setWaits h.zone (s.occ.waits[h.zone].erase e) s)))) :=
      .tail (.tail (.trans (.of (.waits _ _ s)) (internals_freeEntry _ _)) (.ctx _ _ _)) (.report _ _)
    dsimp only
    split
    · exact .tail run (.recheck _ _ _)
    · exact run

theorem internals_withdrawZone (r : Reason) (s : State) (z : ZoneIndex) : Internals s (withdrawZone r s z) :=
  .foldl (fun s e => internals_endHold _ _ e s) _ _

theorem internals_withdrawForWindow (w : Fin 16) (s : State) : Internals s (withdrawForWindow w s) :=
  .foldl (internals_withdrawZone _) _ _

/-- An update of the wait lists does not change whether a zone has room. -/
theorem hasRoom_congr {s t : State} (ht : t.table = s.table) (hc : t.occ.claims = s.occ.claims) (z : Zone) :
    t.hasRoom z = s.hasRoom z := by
  have hd : t.placeAt z = s.placeAt z := by unfold State.placeAt State.descriptor; rw [ht]
  unfold State.hasRoom State.claimCount
  rw [hd, hc]

theorem evalPauses_occ (s : State) : (evalPauses s).occ = s.occ := by
  unfold evalPauses evalPauseD evalPauseU; split <;> split <;> rfl

theorem evalPauses_table (s : State) : (evalPauses s).table = s.table := by
  unfold evalPauses evalPauseD evalPauseU; split <;> split <;> rfl

theorem internals_pass {z : ZoneIndex} {s : State} (hp : s.passAllowed z = true) (e : Fin 16) (h : HoldEntry)
    (rest : List (Fin 16)) : Internals s (pass z e h rest s) := by
  simp only [State.passAllowed, Bool.and_eq_true, decide_eq_true_eq] at hp
  obtain ⟨⟨⟨⟨_, hr⟩, _⟩, hd⟩, _⟩ := hp
  unfold pass
  refine .tail (.trans (.tail (.tail (.tail (.of (.waits z rest s)) (.drive _ _ hd)) (.ctx _ _ _)) (.grant _ _ ?_))
    (internals_freeEntry _ _)) (.report _ _)
  rw [← hr]
  refine hasRoom_congr ?_ ?_ _
  · exact evalPauses_table _
  · show (evalPauses _).occ.claims = _
    rw [evalPauses_occ]; rfl

theorem internals_passLoop (z : ZoneIndex) (n : Nat) (s : State) : Internals s (passLoop z n s) := by
  induction n generalizing s with
  | zero => exact .rfl
  | succ n ih =>
    unfold passLoop
    split
    · rename_i hp
      split
      · exact .rfl
      · split
        · exact .trans (.of (.waits _ _ s)) (ih _)
        · exact (internals_pass hp _ _ _).trans (ih _)
    · exact .rfl

theorem internals_reexamine (z : ZoneIndex) (s : State) : Internals s (reexamine z s) :=
  .tail (internals_passLoop _ _ _) (.recheck _ _ _)

theorem internals_offer (z : Zone) (s : State) : Internals s (offer z s) := by
  unfold offer
  split
  · dsimp only
    split
    · exact .of (.recheck _ _ _)
    · split
      · exact internals_reexamine _ _
      · exact .rfl
  · exact .rfl

theorem internals_releaseClaim (z : Zone) (s : State) : Internals s (releaseClaim z s) :=
  .trans (.of (.drop z s)) (internals_offer _ _)

theorem internals_servePending (s : State) : Internals s (servePending s) :=
  .foldl (fun s z => by
    split
    · exact internals_reexamine _ _
    · exact .rfl) _ _

theorem internals_undoPurged (s : State) (f : DFrame) : Internals s (undoPurged s f) := by
  unfold undoPurged
  split
  · split
    · exact .rfl
    · dsimp only
      split
      · exact .tail (.trans (internals_modifyCtx _ _ _) (internals_releaseClaim _ _)) (.report _ _)
      · exact .tail (internals_modifyCtx _ _ _) (.report _ _)
  · exact .rfl

/-! ### What a run keeps -/

/-- What every run of internal steps keeps, and how the queues and the outputs grow. -/
structure Traffic (s t : State) : Prop where
  sources : t.sources = s.sources
  table : t.table = s.table
  time : t.time = s.time
  freeCount : t.freeCount = s.freeCount
  pending : t.pending = s.pending
  gov : ∃ flags pulses, t.gov = { s.gov with flags := flags, pulses := pulses }
  link : ∃ pausedU pausedD dq uq, t.link = { s.link with pausedU := pausedU, pausedD := pausedD, dq := dq, uq := uq }
  dq : s.link.dq <+: t.link.dq
  uq : ∃ frames : List UFrame, t.link.uq = s.link.uq ++ frames.map fun f => { frame := f, answersReset := false }
  wireU : s.wireU <+: t.wireU
  wireD : s.wireD <+: t.wireD

theorem Traffic.refl (s : State) : Traffic s s :=
  { sources := rfl, table := rfl, time := rfl, freeCount := rfl, pending := rfl, gov := ⟨_, _, rfl⟩, link := ⟨_, _, _, _, rfl⟩,
    dq := List.prefix_refl _, uq := ⟨[], by simp⟩, wireU := List.prefix_refl _, wireD := List.prefix_refl _ }

theorem Traffic.trans {s t u : State} (h : Traffic s t) (k : Traffic t u) : Traffic s u := by
  obtain ⟨f1, p1, g1⟩ := h.gov
  obtain ⟨f2, p2, g2⟩ := k.gov
  obtain ⟨a1, b1, c1, d1, l1⟩ := h.link
  obtain ⟨a2, b2, c2, d2, l2⟩ := k.link
  obtain ⟨x, hx⟩ := h.uq
  obtain ⟨y, hy⟩ := k.uq
  exact
    { sources := k.sources.trans h.sources, table := k.table.trans h.table, time := k.time.trans h.time
      freeCount := k.freeCount.trans h.freeCount, pending := k.pending.trans h.pending
      gov := ⟨f2, p2, by rw [g2, g1]⟩, link := ⟨a2, b2, c2, d2, by rw [l2, l1]⟩
      dq := h.dq.trans k.dq, uq := ⟨x ++ y, by rw [hy, hx]; simp⟩
      wireU := h.wireU.trans k.wireU, wireD := h.wireD.trans k.wireD }

/-- The pause states follow: the two marks and at most one symbol on each port (R10). -/
theorem evalPauses_eq (s : State) : evalPauses s =
    { s with
      link := { s.link with pausedU := s.pauseCauseU, pausedD := s.pauseCauseD }
      wireU := s.wireU ++ (if s.link.pausedU = s.pauseCauseU then [] else [pauseSymbol s.pauseCauseU])
      wireD := s.wireD ++ (if s.link.pausedD = s.pauseCauseD then [] else [pauseSymbol s.pauseCauseD]) } := by
  have hd : (evalPauseU s).pauseCauseD = s.pauseCauseD := by unfold evalPauseU; split <;> rfl
  have hp : (evalPauseU s).link.pausedD = s.link.pausedD := by unfold evalPauseU; split <;> rfl
  unfold evalPauses evalPauseD
  rw [hd, hp]
  unfold evalPauseU
  by_cases h1 : s.link.pausedU = s.pauseCauseU <;> by_cases h2 : s.link.pausedD = s.pauseCauseD <;> simp [h1, h2]
  rw [← h1, ← h2]

theorem traffic_evalPauses (s : State) : Traffic s (evalPauses s) := by
  rw [evalPauses_eq]
  exact { Traffic.refl s with link := ⟨_, _, _, _, rfl⟩, wireU := List.prefix_append _ _, wireD := List.prefix_append _ _ }

theorem traffic_pushDq (f : DFrame) (s : State) : Traffic s (pushDq f s) :=
  Traffic.trans (t := { s with link := { s.link with dq := s.link.dq ++ [f] } })
    { Traffic.refl s with link := ⟨_, _, _, _, rfl⟩, dq := List.prefix_append _ _, uq := ⟨[], by simp⟩ } (traffic_evalPauses _)

theorem traffic_pushUq (f : UFrame) (s : State) : Traffic s (pushUq f s) :=
  Traffic.trans (t := { s with link := { s.link with uq := s.link.uq ++ [{ frame := f, answersReset := false }] } })
    { Traffic.refl s with link := ⟨_, _, _, _, rfl⟩, dq := List.prefix_refl _, uq := ⟨[f], rfl⟩ } (traffic_evalPauses _)

theorem traffic_setCtx (c : Carriage) (x : Context) (s : State) : Traffic s (setCtx c x s) := { Traffic.refl s with }

theorem traffic_feedLoop (n : Nat) (s : State) : Traffic s (feedLoop n s) := by
  induction n generalizing s with
  | zero => exact .refl s
  | succ n ih =>
    unfold feedLoop
    split
    · exact .refl s
    · rename_i rest _
      split
      · refine Traffic.trans ?_ (ih _)
        refine Traffic.trans ?_ (traffic_setCtx _ _ _)
        exact Traffic.trans (t := { s with occ := { s.occ with backlog := rest } }) { Traffic.refl s with } (traffic_pushUq _ _)
      · exact .refl s

theorem Internal.traffic {s t : State} (h : Internal s t) : Traffic s t := by
  cases h with
  | ctx c x => exact { Traffic.refl s with }
  | grant z h => exact { Traffic.refl s with }
  | drop z => exact { Traffic.refl s with }
  | waits z l => exact { Traffic.refl s with }
  | recheck z b => exact { Traffic.refl s with }
  | flag f => exact { Traffic.refl s with gov := ⟨_, _, rfl⟩ }
  | pool p => exact { Traffic.refl s with }
  | warn b => exact { Traffic.refl s with }
  | drive f h => exact traffic_pushDq f s
  | report r =>
    exact Traffic.trans (t := modifyCtx r.carriage (fun x => { x with verdictOwed := true })
      { s with occ := { s.occ with backlog := s.occ.backlog ++ [r] } }) { Traffic.refl s with } (traffic_feedLoop _ _)
  | feed => exact traffic_feedLoop _ _

/-- A run of internal steps keeps configuration, clock, commands and governor state, and only adds to what is queued and sent. -/
theorem Internals.traffic {s t : State} (h : Internals s t) : Traffic s t := by
  induction h with
  | refl => exact .refl s
  | tail _ last ih => exact ih.trans last.traffic

/-- A property that each internal step keeps, every run keeps. -/
theorem Internals.keeps {P : State → Prop} (hP : ∀ s t, P s → Internal s t → P t) {s t : State} (hs : P s) (h : Internals s t) :
    P t := by
  induction h with
  | refl => exact hs
  | tail _ last ih => exact hP _ _ ih last

end Sys2Proof.Machine
end

