-- ==== Sys2Proof/Laws/Halts.lean ====
section
/-! SUPPORT. Halt entries and the causes that lead to them, as runs of internal steps; the service of pending zones where none is
pending. -/

namespace Sys2Proof.Machine

/-- With no zone pending the service changes nothing. -/
theorem servePending_of_nonePending {s : State} (h : s.NonePending) : servePending s = s := by
  unfold servePending
  induction List.finRange 64 with
  | nil => rfl
  | cons z l ih => rw [List.foldl_cons, if_neg (by rw [h z]; decide)]; exact ih

/-- A halt entry is its first three steps, a run of internal steps, and the announcement (R152). -/
theorem haltEntry_run (s : State) : ∃ u, Internals (haltAndPurge s) u ∧ haltEntry s = evalPauses u := by
  unfold haltEntry
  have undone : Internals (haltAndPurge s) (s.link.purged.foldl undoPurged (haltAndPurge s)) :=
    .foldl (fun s f => internals_undoPurged s f) _ _
  by_cases he : s.link.purged.isEmpty = true
  · exact ⟨_, undone, by simp only [he, if_true]⟩
  · exact ⟨_, undone.trans (internals_servePending _), by simp only [he]; rfl⟩

/-- With nothing to purge DQ stays as it is. -/
theorem kept_of_nothingToPurge {s : State} (h : s.NothingToPurge) : s.link.kept = s.link.dq := by
  have hk : ∀ l : List DFrame, l.filter DFrame.isDriveMove = [] → l.filter (fun f => !f.isDriveMove) = l := by
    intro l hl
    rw [List.filter_eq_nil_iff] at hl
    exact List.filter_eq_self.2 fun f hf => by simpa using hl f hf
  unfold State.NothingToPurge Link.purged at h
  unfold Link.kept
  rw [hk _ h]
  unfold Link.unsent
  split
  · cases s.link.dq <;> rfl
  · rfl

/-- With nothing to purge a halt entry is the governor state, the halt slot and the pause states. -/
theorem haltEntry_of_nothingToPurge {s : State} (h : s.NothingToPurge) : haltEntry s =
    evalPauses { s with gov := { s.gov with state := .halted }, link := { s.link with haltSlot := true } } := by
  unfold haltEntry
  have hp : s.link.purged = [] := h
  simp only [hp, List.foldl_nil, List.isEmpty_nil, if_true]
  unfold haltAndPurge
  rw [kept_of_nothingToPurge h]

/-! ### Outside GOVERNING no waiter is served -/

/-- What changes when moves are undone and zones offered outside GOVERNING: contexts, claims, pending marks, backlog and UQ. -/
structure Calm (s t : State) : Prop extends Traffic s t where
  sameGov : t.gov = s.gov
  sameDq : t.link.dq = s.link.dq
  pool : t.occ.pool = s.occ.pool
  waits : t.occ.waits = s.occ.waits
  holdWarn : t.occ.holdWarn = s.occ.holdWarn

theorem Calm.refl (s : State) : Calm s s := { Traffic.refl s with sameGov := rfl, sameDq := rfl, pool := rfl, waits := rfl, holdWarn := rfl }

theorem Calm.trans {s t u : State} (h : Calm s t) (k : Calm t u) : Calm s u :=
  { h.toTraffic.trans k.toTraffic with
    sameGov := k.sameGov.trans h.sameGov, sameDq := k.sameDq.trans h.sameDq, pool := k.pool.trans h.pool
    waits := k.waits.trans h.waits, holdWarn := k.holdWarn.trans h.holdWarn }

theorem calm_evalPauses (s : State) : Calm s (evalPauses s) :=
  { traffic_evalPauses s with
    sameGov := by rw [evalPauses_eq], sameDq := by rw [evalPauses_eq], pool := by rw [evalPauses_eq]
    waits := by rw [evalPauses_eq], holdWarn := by rw [evalPauses_eq] }

theorem calm_pushUq (f : UFrame) (s : State) : Calm s (pushUq f s) :=
  { traffic_pushUq f s with
    sameGov := (calm_evalPauses _).sameGov, sameDq := (calm_evalPauses _).sameDq, pool := (calm_evalPauses _).pool
    waits := (calm_evalPauses _).waits, holdWarn := (calm_evalPauses _).holdWarn }

theorem calm_feedLoop (n : Nat) (s : State) : Calm s (feedLoop n s) := by
  induction n generalizing s with
  | zero => exact .refl s
  | succ n ih =>
    unfold feedLoop
    split
    · exact .refl s
    · rename_i r rest _
      split
      · refine Calm.trans (t := { s with occ := { s.occ with backlog := rest } }) { Calm.refl s with } ?_
        refine (calm_pushUq r.frame _).trans ?_
        generalize pushUq r.frame { s with occ := { s.occ with backlog := rest } } = u
        exact Calm.trans (t := modifyCtx r.carriage (fun x => { x with verdictOwed := false }) u) { Calm.refl u with } (ih _)
      · exact .refl s

theorem calm_appendRecord (r : BacklogRecord) (s : State) : Calm s (appendRecord r s) :=
  Calm.trans (t := modifyCtx r.carriage (fun x => { x with verdictOwed := true })
    { s with occ := { s.occ with backlog := s.occ.backlog ++ [r] } }) { Calm.refl s with } (calm_feedLoop _ _)

/-- Outside GOVERNING no pass is made (R110). -/
theorem passLoop_of_not_governing {s : State} (h : s.gov.state ≠ .governing) (z : ZoneIndex) (n : Nat) : passLoop z n s = s := by
  cases n with
  | zero => rfl
  | succ n => simp [passLoop, State.passAllowed, h]

/-- Outside GOVERNING a re-examination marks the zone and does nothing else (R110, R112). -/
theorem reexamine_of_not_governing {s : State} (h : s.gov.state ≠ .governing) (z : ZoneIndex) : reexamine z s = markRecheck z s := by
  rw [reexamine, passLoop_of_not_governing h]

theorem calm_offer {s : State} (h : s.gov.state ≠ .governing) (z : Zone) : Calm s (offer z s) := by
  unfold offer
  split
  · dsimp only
    split
    · exact { Calm.refl s with }
    · split
      · rw [reexamine_of_not_governing h]; exact { Calm.refl s with }
      · exact .refl s
  · exact .refl s

theorem calm_releaseClaim {s : State} (h : s.gov.state ≠ .governing) (z : Zone) : Calm s (releaseClaim z s) :=
  Calm.trans (t := dropClaim z s) { Calm.refl s with } (calm_offer (s := dropClaim z s) h z)

theorem calm_modifyCtx (c : Carriage) (f : Context → Context) (s : State) : Calm s (modifyCtx c f s) := { Calm.refl s with }

theorem calm_undoPurged {s : State} (h : s.gov.state ≠ .governing) (f : DFrame) : Calm s (undoPurged s f) := by
  have released : ∀ c g z, Calm s (releaseClaim z (modifyCtx c g s)) := fun c g z =>
    (calm_modifyCtx c g s).trans (calm_releaseClaim (by rw [(calm_modifyCtx c g s).sameGov]; exact h) z)
  unfold undoPurged
  split
  · split
    · exact .refl s
    · dsimp only
      split
      · exact (released _ _ _).trans (calm_appendRecord _ _)
      · exact (calm_modifyCtx _ _ _).trans (calm_appendRecord _ _)
  · exact .refl s

theorem calm_servePending {s : State} (h : s.gov.state ≠ .governing) : Calm s (servePending s) := by
  unfold servePending
  generalize List.finRange 64 = l
  induction l generalizing s with
  | nil => exact .refl s
  | cons z l ih =>
    rw [List.foldl_cons]
    split
    · rw [reexamine_of_not_governing h]
      exact Calm.trans (t := markRecheck z s) { Calm.refl s with } (ih (s := markRecheck z s) h)
    · exact ih h

/-- A halt entry after its first three steps is calm (R152). -/
theorem calm_haltEntry (s : State) : Calm (haltAndPurge s) (haltEntry s) := by
  have halted : ∀ {t : State}, t.gov.state = .halted → t.gov.state ≠ .governing := fun h e => by rw [h] at e; cases e
  have undone : ∀ (l : List DFrame) (t : State), t.gov.state = .halted → Calm t (l.foldl undoPurged t) := by
    intro l
    induction l with
    | nil => exact fun t _ => .refl t
    | cons f l ih =>
      intro t ht
      have one := calm_undoPurged (halted ht) f
      exact one.trans (ih _ (by rw [one.sameGov]; exact ht))
  have first := undone s.link.purged (haltAndPurge s) rfl
  unfold haltEntry
  dsimp only
  split
  · exact first.trans (calm_evalPauses _)
  · exact (first.trans (calm_servePending (halted (by rw [first.sameGov]; rfl)))).trans (calm_evalPauses _)

/-! ### Causes -/

/-- A cause sets its flag, and halts a GOVERNING part whose enable is set (R150). -/
theorem takeCause_cases (k : Cause) (s : State) :
    takeCause k s = raise k.flag s ∨ (s.gov.state = .governing ∧ takeCause k s = haltEntry (raise k.flag s)) := by
  unfold takeCause
  dsimp only
  split
  · rename_i h
    simp only [Bool.and_eq_true, decide_eq_true_eq] at h
    exact .inr ⟨h.1, rfl⟩
  · exact .inl rfl

/-- A property that internal steps, the first steps of a halt entry and the announcement keep, a halt entry keeps. -/
theorem haltEntry_keeps {P : State → Prop} (hi : ∀ s t, P s → Internal s t → P t) (hh : ∀ s, P s → P (haltAndPurge s))
    (he : ∀ s, P s → P (evalPauses s)) {s : State} (hs : P s) : P (haltEntry s) := by
  obtain ⟨u, run, eq⟩ := haltEntry_run s
  rw [eq]
  exact he _ (run.keeps hi (hh _ hs))

/-- A property that internal steps and halt entries keep, every halt cause keeps. -/
theorem takeCause_keeps {P : State → Prop} (hi : ∀ s t, P s → Internal s t → P t) (hh : ∀ s, P s → P (haltEntry s)) (k : Cause)
    {s : State} (hs : P s) : P (takeCause k s) := by
  have hr := hi _ _ hs (.flag k.flag s)
  rcases takeCause_cases k s with h | ⟨-, h⟩ <;> rw [h]
  · exact hr
  · exact hh _ hr

/-- Such a property STOP keeps. -/
theorem takeStop_keeps {P : State → Prop} (hi : ∀ s t, P s → Internal s t → P t) (hh : ∀ s, P s → P (haltEntry s)) {s : State}
    (hs : P s) : P (takeStop s) := by
  unfold takeStop
  split
  · exact hs
  · exact hh _ (hi _ _ hs (.flag _ _))
  · exact hi _ _ hs (.flag _ _)

end Sys2Proof.Machine
end

