-- ==== Sys2Proof/Laws/Contexts.lean ====
section
/-! SUPPORT. Contexts read after they are written, and what the shared operations leave of a carriage: its tag, and that it is
enrolled. -/

namespace Sys2Proof.Machine

@[simp] theorem ctx_setCtx_self (c : Carriage) (x : Context) (s : State) : (setCtx c x s).ctx c = x := by simp [State.ctx]

theorem ctx_setCtx_ne {c d : Carriage} (h : d ≠ c) (x : Context) (s : State) : (setCtx c x s).ctx d = s.ctx d := by
  simp only [State.ctx, setCtx_carriages, Fin.getElem_fin]
  exact Vector.getElem_set_ne _ _ (fun e => h (Fin.ext e).symm)

theorem ctx_setCtx (c d : Carriage) (x : Context) (s : State) : (setCtx c x s).ctx d = if d = c then x else s.ctx d := by
  split
  · rename_i h; subst h; exact ctx_setCtx_self _ _ _
  · rename_i h; exact ctx_setCtx_ne h _ _

theorem ctx_modifyCtx (c d : Carriage) (f : Context → Context) (s : State) :
    (modifyCtx c f s).ctx d = if d = c then f (s.ctx c) else s.ctx d := ctx_setCtx _ _ _ _

theorem evalPauses_carriages (s : State) : (evalPauses s).carriages = s.carriages := by rw [evalPauses_eq]

theorem ctx_evalPauses (s : State) (c : Carriage) : (evalPauses s).ctx c = s.ctx c := by rw [State.ctx, evalPauses_carriages]; rfl

theorem ctx_pushDq (f : DFrame) (s : State) (c : Carriage) : (pushDq f s).ctx c = s.ctx c := ctx_evalPauses _ _

theorem ctx_pushUq (f : UFrame) (s : State) (c : Carriage) : (pushUq f s).ctx c = s.ctx c := ctx_evalPauses _ _

/-- A carriage keeps its tag, and stays enrolled if it is. -/
def KeepsTag (c : Carriage) (s t : State) : Prop :=
  (t.ctx c).tag = (s.ctx c).tag ∧ ((s.ctx c).state ≠ .unenrolled → (t.ctx c).state ≠ .unenrolled)

theorem KeepsTag.refl (c : Carriage) (s : State) : KeepsTag c s s := ⟨rfl, id⟩

theorem KeepsTag.trans {c : Carriage} {s t u : State} (h : KeepsTag c s t) (k : KeepsTag c t u) : KeepsTag c s u :=
  ⟨k.1.trans h.1, fun e => k.2 (h.2 e)⟩

theorem KeepsTag.of_ctx {c : Carriage} {s t : State} (h : t.ctx c = s.ctx c) : KeepsTag c s t := by rw [KeepsTag, h]; exact ⟨rfl, id⟩

theorem keepsTag_modifyCtx (c d : Carriage) {f : Context → Context} (s : State) (ht : ∀ x, (f x).tag = x.tag)
    (he : ∀ x : Context, x.state ≠ .unenrolled → (f x).state ≠ .unenrolled) : KeepsTag d s (modifyCtx c f s) := by
  rw [KeepsTag, ctx_modifyCtx]
  split
  · rename_i h; subst h; exact ⟨ht _, he _⟩
  · exact ⟨rfl, id⟩

theorem keepsTag_feedLoop (c : Carriage) (n : Nat) (s : State) : KeepsTag c s (feedLoop n s) := by
  induction n generalizing s with
  | zero => exact .refl c s
  | succ n ih =>
    unfold feedLoop
    split
    · exact .refl c s
    · rename_i r rest _
      split
      · exact ((KeepsTag.of_ctx (t := pushUq r.frame { s with occ := { s.occ with backlog := rest } }) (ctx_pushUq _ _ _)).trans
          (keepsTag_modifyCtx r.carriage c (f := fun x => { x with verdictOwed := false }) _ (fun _ => rfl) (fun _ h => h))).trans (ih _)
      · exact .refl c s

theorem keepsTag_appendRecord (c : Carriage) (r : BacklogRecord) (s : State) : KeepsTag c s (appendRecord r s) :=
  (keepsTag_modifyCtx r.carriage c (f := fun x => { x with verdictOwed := true })
    { s with occ := { s.occ with backlog := s.occ.backlog ++ [r] } } (fun _ => rfl) (fun _ h => h)).trans (keepsTag_feedLoop _ _ _)

theorem evalHoldWarn_carriages (b : Bool) (s : State) : (evalHoldWarn b s).carriages = s.carriages := by
  unfold evalHoldWarn; split
  · rfl
  · split <;> rfl

theorem ctx_freeEntry (e : Fin 16) (s : State) (c : Carriage) : (freeEntry e s).ctx c = s.ctx c := by
  rw [State.ctx, freeEntry, evalHoldWarn_carriages]; rfl

theorem keepsTag_pass (c : Carriage) (z : ZoneIndex) (e : Fin 16) (h : HoldEntry) (rest : List (Fin 16)) (s : State) :
    KeepsTag c s (pass z e h rest s) := by
  unfold pass
  refine KeepsTag.trans ?_ (keepsTag_appendRecord _ _ _)
  refine KeepsTag.trans ?_ (.of_ctx (ctx_freeEntry _ _ _))
  have granted : ∀ t : State, KeepsTag c s t → KeepsTag c s (grantClaim z.castSucc t) := fun t k => k
  refine granted _ (KeepsTag.trans ?_ (keepsTag_modifyCtx _ _ _ (fun _ => rfl) (fun _ _ => by intro e; cases e)))
  exact .of_ctx ((ctx_pushDq _ _ _).trans rfl)

theorem keepsTag_passLoop (c : Carriage) (z : ZoneIndex) (n : Nat) (s : State) : KeepsTag c s (passLoop z n s) := by
  induction n generalizing s with
  | zero => exact .refl c s
  | succ n ih =>
    unfold passLoop
    split
    · split
      · exact .refl c s
      · split
        · exact KeepsTag.trans (.of_ctx rfl) (ih _)
        · exact (keepsTag_pass _ _ _ _ _ _).trans (ih _)
    · exact .refl c s

theorem keepsTag_offer (c : Carriage) (z : Zone) (s : State) : KeepsTag c s (offer z s) := by
  unfold offer
  split
  · dsimp only
    split
    · exact .of_ctx rfl
    · split
      · exact (keepsTag_passLoop _ _ _ _).trans (.of_ctx rfl)
      · exact .refl c s
  · exact .refl c s

theorem keepsTag_releaseClaim (c : Carriage) (z : Zone) (s : State) : KeepsTag c s (releaseClaim z s) :=
  KeepsTag.trans (t := dropClaim z s) (.of_ctx rfl) (keepsTag_offer _ _ _)

/-! ### Enrolment in a halt entry -/

/-- A carriage keeps its tag, and is enrolled exactly if it was. -/
def SameTag (c : Carriage) (s t : State) : Prop :=
  (t.ctx c).tag = (s.ctx c).tag ∧ ((t.ctx c).state = .unenrolled ↔ (s.ctx c).state = .unenrolled)

theorem SameTag.refl (c : Carriage) (s : State) : SameTag c s s := ⟨rfl, .rfl⟩

theorem SameTag.trans {c : Carriage} {s t u : State} (h : SameTag c s t) (k : SameTag c t u) : SameTag c s u :=
  ⟨k.1.trans h.1, k.2.trans h.2⟩

theorem SameTag.of_ctx {c : Carriage} {s t : State} (h : t.ctx c = s.ctx c) : SameTag c s t := by rw [SameTag, h]; exact ⟨rfl, .rfl⟩

theorem sameTag_modifyCtx (c d : Carriage) {f : Context → Context} (s : State) (ht : (f (s.ctx c)).tag = (s.ctx c).tag)
    (he : (f (s.ctx c)).state = .unenrolled ↔ (s.ctx c).state = .unenrolled) : SameTag d s (modifyCtx c f s) := by
  rw [SameTag, ctx_modifyCtx]
  split
  · rename_i h; subst h; exact ⟨ht, he⟩
  · exact ⟨rfl, .rfl⟩

theorem sameTag_feedLoop (c : Carriage) (n : Nat) (s : State) : SameTag c s (feedLoop n s) := by
  induction n generalizing s with
  | zero => exact .refl c s
  | succ n ih =>
    unfold feedLoop
    split
    · exact .refl c s
    · rename_i r rest _
      split
      · exact ((SameTag.of_ctx (t := pushUq r.frame { s with occ := { s.occ with backlog := rest } }) (ctx_pushUq _ _ _)).trans
          (sameTag_modifyCtx r.carriage c (f := fun x => { x with verdictOwed := false }) _ rfl .rfl)).trans (ih _)
      · exact .refl c s

theorem sameTag_appendRecord (c : Carriage) (r : BacklogRecord) (s : State) : SameTag c s (appendRecord r s) :=
  (sameTag_modifyCtx r.carriage c (f := fun x => { x with verdictOwed := true })
    { s with occ := { s.occ with backlog := s.occ.backlog ++ [r] } } rfl .rfl).trans (sameTag_feedLoop _ _ _)

theorem sameTag_offer {s : State} (h : s.gov.state ≠ .governing) (c : Carriage) (z : Zone) : SameTag c s (offer z s) := by
  unfold offer
  split
  · dsimp only
    split
    · exact .of_ctx rfl
    · split
      · rw [reexamine_of_not_governing h]; exact .of_ctx rfl
      · exact .refl c s
  · exact .refl c s

theorem sameTag_undoPurged {s : State} (h : s.gov.state ≠ .governing) (c : Carriage) (f : DFrame) :
    SameTag c s (undoPurged s f) := by
  unfold undoPurged
  split
  · split
    · exact .refl c s
    · rename_i d _ _ _ r hr
      have moving : (s.ctx d.carriage).state = .moving := by
        unfold Context.movingRecord at hr
        split at hr
        · assumption
        · cases hr
      have undone : SameTag c s (modifyCtx d.carriage (fun x => { x with inFlight := none, state := .parked }) s) :=
        sameTag_modifyCtx d.carriage c s rfl (by rw [moving]; constructor <;> intro e <;> cases e)
      have released : ∀ z, SameTag c s (releaseClaim z (modifyCtx d.carriage (fun x => { x with inFlight := none, state := .parked }) s)) :=
        fun z => (undone.trans (t := modifyCtx d.carriage (fun x => { x with inFlight := none, state := .parked }) s)
          (.of_ctx rfl)).trans (sameTag_offer (s := dropClaim z (modifyCtx d.carriage _ s)) h c z)
      dsimp only
      split
      · exact (released _).trans (sameTag_appendRecord _ _ _)
      · exact undone.trans (sameTag_appendRecord _ _ _)
  · exact .refl c s

theorem sameTag_servePending {s : State} (h : s.gov.state ≠ .governing) (c : Carriage) : SameTag c s (servePending s) := by
  unfold servePending
  generalize List.finRange 64 = l
  induction l generalizing s with
  | nil => exact .refl c s
  | cons z l ih =>
    rw [List.foldl_cons]
    split
    · rw [reexamine_of_not_governing h]
      exact SameTag.trans (t := markRecheck z s) (.of_ctx rfl) (ih (s := markRecheck z s) h)
    · exact ih h

/-- A halt entry leaves every carriage its tag and its enrolment. -/
theorem sameTag_haltEntry (c : Carriage) (s : State) : SameTag c s (haltEntry s) := by
  have halted : ∀ {t : State}, t.gov.state = .halted → t.gov.state ≠ .governing := fun h e => by rw [h] at e; cases e
  have undone : ∀ (l : List DFrame) (t : State), t.gov.state = .halted →
      SameTag c t (l.foldl undoPurged t) ∧ (l.foldl undoPurged t).gov.state = .halted := by
    intro l
    induction l with
    | nil => exact fun t h => ⟨.refl c t, h⟩
    | cons f l ih =>
      intro t ht
      have next := ih (undoPurged t f) (by rw [(calm_undoPurged (halted ht) f).sameGov]; exact ht)
      exact ⟨(sameTag_undoPurged (halted ht) c f).trans next.1, next.2⟩
  obtain ⟨first, still⟩ := undone s.link.purged (haltAndPurge s) rfl
  have first' : SameTag c s (s.link.purged.foldl undoPurged (haltAndPurge s)) := SameTag.trans (t := haltAndPurge s) (.of_ctx rfl) first
  unfold haltEntry
  dsimp only
  split
  · exact first'.trans (.of_ctx (ctx_evalPauses _ _))
  · exact (first'.trans (sameTag_servePending (halted still) c)).trans (.of_ctx (ctx_evalPauses _ _))

/-- Every halt cause leaves every carriage its tag and its enrolment. -/
theorem sameTag_takeCause (c : Carriage) (k : Cause) (s : State) : SameTag c s (takeCause k s) := by
  rcases takeCause_cases k s with h | ⟨-, h⟩ <;> rw [h]
  · exact .of_ctx rfl
  · exact SameTag.trans (t := raise k.flag s) (.of_ctx rfl) (sameTag_haltEntry _ _)

end Sys2Proof.Machine
end

