-- ==== Sys2Proof/Laws/Kept.lean ====
section
/-! SUPPORT. One induction over all the commands: a property that every primitive change keeps, under the condition in which the
part makes that change, every command keeps and so every step. -/

namespace Sys2Proof.Machine

/-- The state after a write of the floor (R24). -/
def withFloor (b : Box) (s : State) : State := { s with table := { s.table with floorBox := b, floorValid := true } }

/-- The state after a replacement of a descriptor (R51). -/
def withDescriptor (i : ZoneIndex) (d : Descriptor) (s : State) : State :=
  { s with table := { s.table with descriptors := s.table.descriptors.set i.val d } }

/-- The state with another governor control. -/
def withGov (g : Governor) (s : State) : State := { s with gov := g }

/-- The state with another time unit. -/
def withTime (t : TimeUnit) (s : State) : State := { s with time := t }

/-- The state with another link unit. -/
def withLink (l : Link) (s : State) : State := { s with link := l }

/-- What a block does to the state while it judges a frame, before the answer is placed. -/
structure KeptByBlocks (P : State → Prop) : Prop where
  internal : ∀ s t, P s → Internal s t → P t
  haltEntry : ∀ s, P s → P (haltEntry s)
  regrant : ∀ s (z : Zone) (l : List Zone), z ∈ l → P s → P (grantClaim z (l.foldl (fun s z => dropClaim z s) s))
  floor : ∀ s b, s.gov.lock = false → P s → P (withFloor b s)
  descriptor : ∀ s (i : ZoneIndex) d, s.gov.lock = false → s.descriptorInUse i = false →
    s.lookupsStand (s.table.descriptors.set i.val d) = true → P s → P (withDescriptor i d s)
  source : ∀ s (i : Source) r, s.gov.lock = false → P s → P { s with sources := s.sources.set i.val r }
  enables : ∀ s a h, s.gov.lock = false → P s → P (withGov (s.gov.writeEnables a h) s)
  clear : ∀ s m, P s → P (withGov (s.gov.clearFlags m) s)
  causeRead : ∀ s, P s → P (withGov { s.gov with cause := 0 } s)
  lock : ∀ s, P s → P (withGov { s.gov with lock := true } s)
  govern : ∀ s, P s → P (withGov { s.gov with state := .governing } s)
  standby : ∀ s, P s → P (withGov { s.gov with state := .standby } s)
  setTime : ∀ s c, c.valid = true → P s → P (withTime { s.time with calendar := c, subSecond := 0, timeInvalid := false } s)
  closeWindow : ∀ s w, s.gov.lock = false → P s → P (setWindow w .unused s)
  writeWindow : ∀ s w e, s.gov.lock = false → e.inUse = true → (e.isOpen = true → s.time.timeInvalid = false) → P s →
    P (setWindow w e s)
  writeTimer : ∀ s (n : Fin 4) (t : Timer), s.gov.lock = false → t.preset ≠ 0 →
    t.counter = (if !s.time.timers[n].enabled && t.enabled then t.preset else s.time.timers[n].counter) → P s → P (setTimer n t s)

/-- Every change a command other than a power-on or line reset makes, with the condition in which it is made. -/
structure Kept (P : State → Prop) : Prop extends KeptByBlocks P where
  receiver : ∀ s p r, P s → P (setReceiver p r s)
  permits : ∀ s u d, P s → P (withLink { s.link with stoppedU := u, stoppedD := d } s)
  toDq : ∀ s f, s.link.dq.length < 16 → P s → P (pushDq f s)
  toUq : ∀ s f, s.link.uq.length < 16 → P s → P (pushUq f s)
  resetTaken : ∀ s f, s.link.uq.length < 16 → s.gov.softPending = false → P s → P (acceptReset (pushUqMarked f true s))
  uStart : ∀ s, s.link.uq ≠ [] → P s → P (withLink { s.link with sendingU := true } s)
  uStop : ∀ s, s.link.uq = [] → P s → P (withLink { s.link with sendingU := false } s)
  uDone : ∀ s e rest, s.link.uq = e :: rest → (e.answersReset && s.gov.softPending) = false → P s →
    P (feed (evalPauses
      { s with link := { s.link with sendingU := false, uq := rest }, wireU := s.wireU ++ [.frame e.frame.bytes] }))
  softReset : ∀ s e rest, s.link.uq = e :: rest → e.answersReset = true → s.gov.softPending = true → P s →
    P (softReset { s with link := { s.link with sendingU := false, uq := rest }, wireU := s.wireU ++ [.frame e.frame.bytes] })
  haltStart : ∀ s, P s → P (withLink { s.link with txD := .haltAll, haltSlot := false } s)
  haltDone : ∀ s, P s → P { s with link := { s.link with txD := .idle }, wireD := s.wireD ++ [.frame haltAllBytes] }
  dStart : ∀ s, s.link.dq ≠ [] → P s → P (withLink { s.link with txD := .frame } s)
  dStop : ∀ s, s.link.dq = [] → P s → P (withLink { s.link with txD := .idle } s)
  dDone : ∀ s f rest, s.link.dq = f :: rest → P s →
    P (evalPauses { s with link := { s.link with txD := .idle, dq := rest }, wireD := s.wireD ++ [.frame f.bytes] })
  countBase : ∀ s raw, P s → P (countBase raw s)
  divider : ∀ s, P s → P (withTime { s.time with divider := 0 } s)
  subSecond : ∀ s, P s → P (withTime { s.time with subSecond := 0 } s)
  lastSecond : ∀ s, P s → P (withTime { s.time with subSecond := 0, calendar := { s.time.calendar with seconds := 0x59 } } s)
  countTicks : ∀ s k, P s → P (countTicks k s)
  evalWindow : ∀ s (w : Fin 16) (b : Bool), s.time.timeInvalid = false → s.time.windows[w].inUse = true → P s →
    P (setWindow w { s.time.windows[w] with isOpen := b } s)
  reloadTimer : ∀ s (n : Fin 4), s.time.timers[n].enabled = true → P s →
    P (setTimer n { s.time.timers[n] with counter := s.time.timers[n].preset } s)
  pulses : ∀ s, P s → P (withGov s.gov.pulseTick s)
  endPulse : ∀ s (p : Fin 5), P s → P (withGov { s.gov with pulses := s.gov.pulses.set p.val 0 } s)
  stopn : ∀ s b, P s → P (withGov { s.gov with stopn := b, stopnCount := 0 } s)
  powerOnDone : ∀ s, s.gov.powerOnHold = true → P s →
    P { s with gov := { s.gov with powerOnHold := false }, wireU := s.wireU ++ [.go], wireD := s.wireD ++ [.go] }
  lineDone : ∀ s, s.gov.lineHold = true → P s →
    P { s with gov := { s.gov with lineHold := false }, wireU := s.wireU ++ [.go], wireD := s.wireD ++ [.go] }

/-! ### Blocks -/

namespace KeptByBlocks

variable {P : State → Prop} (k : KeptByBlocks P)
include k

theorem run {s t : State} (hs : P s) (h : Internals s t) : P t := h.keeps k.internal hs

theorem cause (c : Cause) {s : State} (hs : P s) : P (takeCause c s) := takeCause_keeps k.internal k.haltEntry c hs

theorem stop {s : State} (hs : P s) : P (takeStop s) := takeStop_keeps k.internal k.haltEntry hs

theorem ofCtx (c : Carriage) (x : Context) {s : State} (hs : P s) : P (setCtx c x s) := k.internal _ _ hs (.ctx c x s)

theorem carriageDone (h : Header) (p : Point) {s : State} (hs : P s) : P (carriageDone h p s) := by
  unfold Machine.carriageDone
  split
  · unfold resolveDone
    dsimp only
    split
    · exact k.run (k.ofCtx _ _ hs) (internals_releaseClaim _ _)
    · exact k.run (k.ofCtx _ _ hs) (internals_releaseClaim _ _)
    · exact k.ofCtx _ _ hs
    · exact k.cause _ (k.ofCtx _ _ hs)
  · split
    · exact k.ofCtx _ _ hs
    · exact hs

theorem stopWithdrawal (c : Carriage) {s : State} (hs : P s) : P (stopWithdrawal c s) := by
  unfold Machine.stopWithdrawal
  split
  · split
    · exact k.run hs (internals_endHold _ _ _ _)
    · exact hs
  · exact hs

/-- The effects of a change of a window's state follow its write (R135). -/
theorem changedWindow (w : Fin 16) (e : WindowEntry) {s : State} (hs : P (setWindow w e s)) : P (changeWindow w e s) := by
  unfold changeWindow
  dsimp only
  split
  · exact hs
  · split
    · exact k.internal _ _ hs (.flag _ _)
    · exact k.run (k.internal _ _ hs (.flag _ _)) (internals_withdrawForWindow _ _)

/-- What a request's owner does keeps the property. -/
theorem request (r : Request) (ops : List Byte) {s : State} (hs : P s) : P (r.run ops s).state := by
  cases r with
  | readStatus => exact hs
  | readAlert => exact hs
  | readFloor => exact hs
  | readTime => exact hs
  | reset => exact hs
  | clearFlags => exact k.clear _ _ hs
  | readCause => exact k.causeRead _ hs
  | lock => exact k.lock _ hs
  | setAlert =>
    simp only [Request.run, reqSetAlert]
    split
    · exact hs
    · rename_i hl
      split
      · exact hs
      · exact k.enables _ _ _ (by simpa using hl) hs
  | start =>
    simp only [Request.run, reqStart]
    split
    · exact hs
    · simp only [Answer.ok, enterGoverning]
      refine k.run ?_ (internals_servePending _)
      exact k.govern _ (k.clear s 0xFFF hs)
  | stop =>
    simp only [Request.run, reqStop]
    split
    · exact hs
    · exact k.stop hs
  | resume =>
    simp only [Request.run, reqResume]
    split
    · exact hs
    · simp only [Answer.ok, enterGoverning]
      refine k.run ?_ (internals_servePending _)
      exact k.govern _ (k.clear s haltCauseMask hs)
  | end_ =>
    simp only [Request.run, reqEnd]
    split
    · exact hs
    · split
      · exact hs
      · exact k.standby _ (k.run hs (.foldl (internals_withdrawZone _) _ _))
  | setFloor =>
    simp only [Request.run, reqSetFloor]
    split
    · exact hs
    · rename_i hl
      split
      · exact hs
      · split
        · exact hs
        · split
          · exact hs
          · exact k.floor _ _ (by simpa using hl) hs
  | writeZone =>
    simp only [Request.run, reqWriteZone]
    split
    · exact hs
    · rename_i hl
      split
      · exact hs
      · split
        · exact hs
        · split
          · exact hs
          · rename_i hu
            simp only [Bool.or_eq_true, Bool.not_eq_true', not_or, Bool.not_eq_true, Bool.not_eq_false] at hu
            exact k.descriptor _ _ _ (by simpa using hl) hu.1 hu.2 hs
  | readZone => simp only [Request.run, reqReadZone]; split <;> exact hs
  | writeSource =>
    simp only [Request.run, reqWriteSource]
    split
    · exact hs
    · rename_i hl
      split
      · exact hs
      · split
        · exact k.source _ _ _ (by simpa using hl) hs
        · exact hs
  | readSource => simp only [Request.run, reqReadSource]; split <;> exact hs
  | enroll =>
    simp only [Request.run, reqEnroll]
    split
    · exact hs
    · split
      · exact hs
      · split
        · exact hs
        · split
          · exact hs
          · split
            · exact hs
            · split
              · exact hs
              · rename_i hr
                simp only [State.freelyEntered, Bool.and_eq_false_iff, not_or, Bool.not_eq_false] at hr
                exact k.internal _ _ (k.ofCtx _ _ hs) (.grant _ _ hr.1)
  | withdrawCarriage =>
    simp only [Request.run, reqWithdraw]
    split
    · exact hs
    · split
      · exact k.ofCtx _ _ (k.run hs (internals_releaseClaim _ _))
      · exact hs
  | releaseCarriage =>
    simp only [Request.run, reqRelease]
    split
    · exact hs
    · split
      · exact hs
      · split
        · exact hs
        · split
          · exact hs
          · rename_i c _ _ _ hr
            refine k.run (k.ofCtx _ _ ?_) (.foldl (fun s z => internals_offer z s) _ _)
            by_cases hz : (s.ctx c).claimedZones.contains (s.lookup (pointAt ops 1)) = true
            · exact k.regrant _ _ _ (by simpa using hz) hs
            · simp only [hz, Bool.false_or, Bool.not_eq_true', Bool.not_eq_false, State.freelyEntered, Bool.and_eq_true] at hr
              refine k.internal _ _ (k.run hs (.foldl (fun s z => .of (.drop z s)) _ _)) (.grant _ _ ?_)
              generalize (s.ctx c).claimedZones = l
              have room : ∀ (l : List Zone) (s : State) (z : Zone), s.hasRoom z = true →
                  (l.foldl (fun s z => dropClaim z s) s).hasRoom z = true := by
                intro l
                induction l with
                | nil => exact fun _ _ h => h
                | cons a l ih =>
                  intro s z h
                  refine ih _ z ?_
                  have hp : (dropClaim a s).placeAt z = s.placeAt z := rfl
                  unfold State.hasRoom State.claimCount at h ⊢
                  rw [hp]
                  simp only [Bool.or_eq_true, decide_eq_true_eq] at h ⊢
                  refine h.imp id fun h => Nat.lt_of_le_of_lt ?_ h
                  simp only [dropClaim_occ, State.claimCount, Fin.getElem_fin, Vector.getElem_set]
                  split
                  · rename_i he; cases Fin.ext he; exact Nat.sub_le _ _
                  · exact Nat.le_refl _
              exact room _ _ _ hr.1
  | readCarriage =>
    simp only [Request.run, reqReadCarriage]
    split
    · exact hs
    · split
      · exact hs
      · split <;> exact hs
  | findTag => simp only [Request.run, reqFindTag]; split <;> exact hs
  | readWaitlist => simp only [Request.run, reqReadWaitlist]; split <;> exact hs
  | readOccupancy => simp only [Request.run, reqReadOccupancy]; split <;> exact hs
  | setTime =>
    simp only [Request.run, reqSetTime]
    split
    · rename_i hv; exact k.setTime _ _ hv hs
    · exact hs
  | writeWindow =>
    simp only [Request.run, reqWriteWindow]
    split
    · exact hs
    · rename_i hl
      have hl' : s.gov.lock = false := by simpa using hl
      split
      · exact hs
      · split
        · exact hs
        · exact k.changedWindow _ _ (k.closeWindow _ _ hl' hs)
        · split
          · exact hs
          · rename_i e he
            have hw : e.inUse = true ∧ (e.isOpen = true → s.time.timeInvalid = false) := by
              simp only [windowEntryOf] at he
              split at he
              · cases he
              · split at he
                · rename_i hc
                  cases he
                  simp only [Bool.and_eq_true, Bool.not_eq_true', Bool.and_eq_false_iff] at hc
                  refine ⟨rfl, fun ho => ?_⟩
                  rcases hc.2 with h | h
                  · rw [h] at ho; cases ho
                  · exact h
                · cases he
            exact k.changedWindow _ _ (k.writeWindow _ _ _ hl' hw.1 hw.2 hs)
  | readWindow => simp only [Request.run, reqReadWindow]; split <;> exact hs
  | writeTimer =>
    simp only [Request.run, reqWriteTimer]
    split
    · exact hs
    · rename_i hl
      split
      · exact hs
      · split
        · split
          · exact hs
          · rename_i hp
            exact k.writeTimer _ _ _ (by simpa using hl) hp rfl hs
        · exact hs
  | readTimer => simp only [Request.run, reqReadTimer]; split <;> exact hs

end KeptByBlocks

/-- Two properties are kept together. -/
theorem KeptByBlocks.and {P Q : State → Prop} (p : KeptByBlocks P) (q : KeptByBlocks Q) : KeptByBlocks fun s => P s ∧ Q s where
  internal s t h i := ⟨p.internal s t h.1 i, q.internal s t h.2 i⟩
  haltEntry s h := ⟨p.haltEntry s h.1, q.haltEntry s h.2⟩
  regrant s z l m h := ⟨p.regrant s z l m h.1, q.regrant s z l m h.2⟩
  floor s b l h := ⟨p.floor s b l h.1, q.floor s b l h.2⟩
  descriptor s i d l u st h := ⟨p.descriptor s i d l u st h.1, q.descriptor s i d l u st h.2⟩
  source s i r l h := ⟨p.source s i r l h.1, q.source s i r l h.2⟩
  enables s a e l h := ⟨p.enables s a e l h.1, q.enables s a e l h.2⟩
  clear s m h := ⟨p.clear s m h.1, q.clear s m h.2⟩
  causeRead s h := ⟨p.causeRead s h.1, q.causeRead s h.2⟩
  lock s h := ⟨p.lock s h.1, q.lock s h.2⟩
  govern s h := ⟨p.govern s h.1, q.govern s h.2⟩
  standby s h := ⟨p.standby s h.1, q.standby s h.2⟩
  setTime s c v h := ⟨p.setTime s c v h.1, q.setTime s c v h.2⟩
  closeWindow s w l h := ⟨p.closeWindow s w l h.1, q.closeWindow s w l h.2⟩
  writeWindow s w e l u o h := ⟨p.writeWindow s w e l u o h.1, q.writeWindow s w e l u o h.2⟩
  writeTimer s n t l z c h := ⟨p.writeTimer s n t l z c h.1, q.writeTimer s n t l z c h.2⟩

/-! ### Free places during a judgement -/

theorem evalPauses_dq (s : State) : (evalPauses s).link.dq = s.link.dq := by rw [evalPauses_eq]

theorem evalPauses_uq (s : State) : (evalPauses s).link.uq = s.link.uq := by rw [evalPauses_eq]

theorem pushDq_dq (f : DFrame) (s : State) : (pushDq f s).link.dq = s.link.dq ++ [f] := evalPauses_dq _

theorem pushDq_uq (f : DFrame) (s : State) : (pushDq f s).link.uq = s.link.uq := evalPauses_uq _

theorem pushUqMarked_uq (f : UFrame) (b : Bool) (s : State) :
    (pushUqMarked f b s).link.uq = s.link.uq ++ [{ frame := f, answersReset := b }] := evalPauses_uq _

theorem pushUq_uq (f : UFrame) (s : State) : (pushUq f s).link.uq = s.link.uq ++ [{ frame := f, answersReset := false }] :=
  evalPauses_uq _

theorem pushUqMarked_dq (f : UFrame) (b : Bool) (s : State) : (pushUqMarked f b s).link.dq = s.link.dq := evalPauses_dq _

theorem pushUq_dq (f : UFrame) (s : State) : (pushUq f s).link.dq = s.link.dq := evalPauses_dq _

/-- A feeding leaves a UQ with a free place with one. -/
theorem feedLoop_uq_lt (n : Nat) {s : State} (h : s.link.uq.length < 16) : (feedLoop n s).link.uq.length < 16 := by
  induction n generalizing s with
  | zero => exact h
  | succ n ih =>
    unfold feedLoop
    split
    · exact h
    · split
      · rename_i ho
        refine ih ?_
        simp only [modifyCtx, setCtx_link, pushUq_uq, List.length_append, List.length_singleton]
        have ho' : 3 < 16 - s.link.uq.length := of_decide_eq_true ho
        omega
      · exact h

theorem feedLoop_dq (n : Nat) (s : State) : (feedLoop n s).link.dq = s.link.dq := by
  induction n generalizing s with
  | zero => rfl
  | succ n ih =>
    unfold feedLoop
    split
    · rfl
    · split
      · rw [ih]; simp only [modifyCtx, setCtx_link, pushUq_dq]
      · rfl

theorem appendRecord_dq (r : BacklogRecord) (s : State) : (appendRecord r s).link.dq = s.link.dq := feedLoop_dq _ _

theorem evalHoldWarn_link (b : Bool) (s : State) : (evalHoldWarn b s).link = s.link := by
  unfold evalHoldWarn; split
  · rfl
  · split <;> rfl

/-- The end of a hold leaves DQ as it is. -/
theorem endHold_dq (v : Verdict) (r : Reason) (e : Fin 16) (s : State) : (endHold v r e s).link.dq = s.link.dq := by
  unfold endHold
  split
  · rfl
  · dsimp only
    have same : ∀ t : State, t.link.dq = s.link.dq → ∀ b z, (if b = true then setRecheck z false t else t).link.dq = s.link.dq := by
      intro t h b z; split <;> exact h
    refine same _ ?_ _ _
    rw [appendRecord_dq]
    exact congrArg Link.dq (evalHoldWarn_link _ _)

/-- Internal steps leave a UQ with a free place with one (R14). -/
theorem Internal.uq_lt {s t : State} (h : s.link.uq.length < 16) (i : Internal s t) : t.link.uq.length < 16 := by
  cases i with
  | drive f hd => rw [pushDq_uq]; exact h
  | report r => exact feedLoop_uq_lt _ h
  | feed => exact feedLoop_uq_lt _ h
  | ctx c x => exact h
  | grant z hr => exact h
  | drop z => exact h
  | waits z l => exact h
  | recheck z b => exact h
  | flag f => exact h
  | pool p => exact h
  | warn b => exact h

theorem foldl_dropClaim_link (l : List Zone) (s : State) : (l.foldl (fun s z => dropClaim z s) s).link = s.link := by
  induction l generalizing s with
  | nil => rfl
  | cons z l ih => exact ih _

/-- No block takes the last free place of UQ on its own account (R14). -/
theorem keptByBlocks_uq_lt : KeptByBlocks fun s => s.link.uq.length < 16 where
  internal _ _ h i := i.uq_lt h
  haltEntry _ h := haltEntry_keeps (P := fun s => s.link.uq.length < 16) (fun _ _ h i => i.uq_lt h) (fun _ h => h)
    (fun s h => by rw [evalPauses_uq]; exact h) h
  regrant s z l _ h := by rw [grantClaim_link, foldl_dropClaim_link]; exact h
  floor _ _ _ h := h
  descriptor _ _ _ _ _ _ h := h
  source _ _ _ _ h := h
  enables _ _ _ _ h := h
  clear _ _ h := h
  causeRead _ h := h
  lock _ h := h
  govern _ h := h
  standby _ h := h
  setTime _ _ _ h := h
  closeWindow _ _ _ h := h
  writeWindow _ _ _ _ _ _ h := h
  writeTimer _ _ _ _ _ _ h := h

/-- A move judged to go forward into another zone finds room there (R96). -/
theorem judgeRoom_hasRoom {s : State} {m m' : Admitted} (h : judgeRoom s m = .forward m') : m' = m ∧ s.hasRoom m.zone = true := by
  unfold judgeRoom at h
  split at h
  · rename_i hr
    cases h
    simp only [State.freelyEntered, Bool.and_eq_true] at hr
    exact ⟨rfl, hr.1⟩
  · split at h
    · split at h
      · cases h
      · split at h <;> cases h
    · rename_i hz
      cases h
      refine ⟨rfl, ?_⟩
      simp [State.hasRoom, State.placeAt, State.descriptor, hz, floorPlace]

theorem judgeMove_hasRoom {s : State} {h : Header} {speed : Speed} {via : Byte} {target : Option Point} {m : Admitted}
    (hj : judgeMove s h speed via target = .forward m) (he : m.entry = true) : s.hasRoom m.zone = true := by
  unfold judgeMove at hj
  dsimp only at hj
  repeat' split at hj
  all_goals try cases hj
  unfold judgeTarget at hj
  dsimp only at hj
  repeat' split at hj
  all_goals try cases hj
  · cases he
  · obtain ⟨rfl, hr⟩ := judgeRoom_hasRoom hj
    exact hr

theorem evalPauses_setCtx (c : Carriage) (x : Context) (s : State) : evalPauses (setCtx c x s) = setCtx c x (evalPauses s) := by
  rw [evalPauses_eq, evalPauses_eq]; rfl

/-- A run of bytes that passes the receive checks is of a kind the port accepts (R7 check 2). -/
theorem checkFrame_kind {p : Port} {bytes : List Byte} {overlong : Bool} {f : InFrame} (h : checkFrame p bytes overlong = some f) :
    kindAccepted p f.kind = true := by
  unfold checkFrame at h
  split at h
  · cases h
  · split at h
    · cases h
    · rename_i hk
      dsimp only at h
      split at h
      · cases h
      · split at h
        · cases h
        · have same : f.kind = byteAt bytes 0 := by
            unfold readPayload at h
            repeat' split at h
            all_goals first
              | (cases h; rename_i hb; exact hb.symm)
              | cases h
          rw [same]
          simpa using hk

/-! ### Commands -/

namespace Kept

variable {P : State → Prop} (k : Kept P)
include k

theorem answer (h : Header) (v : Verdict) (r : Reason) (speed : Speed) {s : State} (hu : s.link.uq.length < 16) (hs : P s) :
    P (answer h v r speed s) := k.toUq _ _ hu hs

theorem dispose (h : Header) (speed : Speed) (via : Byte) (target : Option Point) {s : State} (hd : s.link.dq.length < 16)
    (hu : s.link.uq.length < 16) (hs : P s) : P (dispose h (judgeMove s h speed via target) s) := by
  generalize hj : judgeMove s h speed via target = o
  unfold Machine.dispose
  split
  · exact k.answer _ _ _ _ hu hs
  · exact k.cause _ (k.answer _ _ _ _ hu hs)
  · rename_i m
    unfold forward
    dsimp only
    have hp := k.ofCtx h.carriage ((s.ctx h.carriage).forwarded (newRecord (s.ctx h.carriage) h.source h.sequence
      (s.effectiveLevel h) m.target m.zone m.entry m.plan.pops m.plan.push))
      (k.toDq s (.driveMove (s.effectiveHeader h) m.target m.speed) hd hs)
    have hp' : ∀ t, t.link.uq.length < 16 → P t → P (if m.clipped = true then
        pushUq (.verdict (s.effectiveHeader h) .clipped .none (s.adjusted h) m.speed) t else t) := by
      intro t ht h
      split
      · exact k.toUq _ _ ht h
      · exact h
    refine hp' _ ?_ ?_
    · split
      · rw [grantClaim_link, setCtx_link, pushDq_uq]; exact hu
      · rw [setCtx_link, pushDq_uq]; exact hu
    · split
      · rename_i he
        refine k.internal _ _ hp (.grant _ _ ?_)
        rw [← judgeMove_hasRoom hj he]
        exact hasRoom_congr (evalPauses_table _) (congrArg Occupancy.claims (evalPauses_occ _)) _
      · exact hp
  · unfold hold
    dsimp only
    refine k.answer _ _ _ _ ?_ ?_
    · exact keptByBlocks_uq_lt.run (s := s) hu
        (.trans (.tail (.of (.waits _ _ _)) (.ctx _ _ _)) (internals_takeEntry _ _ _))
    · exact k.run hs (.trans (.tail (.of (.waits _ _ _)) (.ctx _ _ _)) (internals_takeEntry _ _ _))

theorem mgmtReq (h : Header) (code rid : Byte) (ops : List Byte) {s : State} (hu : s.link.uq.length < 16)
    (hp : s.gov.softPending = false) (hs : P s) : P (takeMgmtReq h code rid ops s) := by
  have answered : ∀ (c : Byte) (st : Status) (d : List Byte) (t : State), t.link.uq.length < 16 → P t →
      P (respond h c rid { state := t, status := st, data := d } false) := fun c st d t ht h => k.toUq _ _ ht h
  unfold takeMgmtReq
  split
  · exact answered _ _ _ _ hu hs
  · split
    · exact answered _ _ _ _ hu hs
    · rename_i r _
      split
      · exact answered _ _ _ _ hu hs
      · split
        · rename_i hr
          subst hr
          exact k.resetTaken _ _ hu hp hs
        · exact answered _ _ _ _ (keptByBlocks_uq_lt.request r ops hu) (k.request r ops hs)

theorem handOn (p : Port) (f : InFrame) {s : State} (hd : p = .u → s.link.dq.length < 16) (hk : kindAccepted p f.kind = true)
    (hu : s.link.uq.length < 16) (hp : s.gov.softPending = false) (hs : P s) : P (handOn p f s) := by
  cases f with
  | moveAbs h x y speed via =>
    cases p with
    | u => exact k.dispose _ _ _ _ (hd rfl) hu hs
    | d => simp [kindAccepted, InFrame.kind] at hk
  | moveRel h dx dy speed via =>
    cases p with
    | u => exact k.dispose _ _ _ _ (hd rfl) hu hs
    | d => simp [kindAccepted, InFrame.kind] at hk
  | setup h enables scale turn offset tag =>
    show P (takeSetup h enables scale turn offset tag s)
    unfold takeSetup
    split
    · exact k.answer _ _ _ _ hu hs
    · split
      · exact k.answer _ _ _ _ hu hs
      · split
        · exact k.answer _ _ _ _ hu hs
        · exact k.ofCtx _ _ hs
  | stopCarriage h =>
    cases p with
    | d => simp [kindAccepted, InFrame.kind] at hk
    | u =>
      show P (takeStopCarriage h s)
      unfold takeStopCarriage
      split
      · exact k.answer _ _ _ _ hu hs
      · split
        · exact k.answer _ _ _ _ hu hs
        · refine k.toDq _ _ ?_ (k.stopWithdrawal _ hs)
          have same : (Machine.stopWithdrawal h.carriage s).link.dq.length = s.link.dq.length := by
            unfold Machine.stopWithdrawal
            split
            · split
              · exact congrArg List.length (endHold_dq _ _ _ _)
              · rfl
            · rfl
          rw [same]
          exact hd rfl
  | transit h payload =>
    cases p with
    | u =>
      show P (takeTransitU h payload s)
      unfold takeTransitU
      split
      · exact k.toDq _ _ (hd rfl) hs
      · exact k.answer _ _ _ _ hu hs
    | d => exact k.toUq _ _ hu hs
  | mgmtReq h request rid ops => exact k.mgmtReq _ _ _ _ hu hp hs
  | done h at_ stopped =>
    exact k.toUq _ _ (keptByBlocks_uq_lt.carriageDone h at_ hu) (k.carriageDone h at_ hs)
  | contact h at_ => exact k.toUq _ _ (keptByBlocks_uq_lt.cause .contact hu) (k.cause .contact hs)

theorem completeFrame (p : Port) (f : Option InFrame) (hk : ∀ g ∈ f, kindAccepted p g.kind = true) {s : State} (hs : P s) :
    P (completeFrame p f s) := by
  unfold Machine.completeFrame
  have h1 := k.receiver s p .idle hs
  dsimp only
  split
  · exact h1
  · rename_i hn
    simp only [Bool.or_eq_true, not_or, Bool.not_eq_true] at hn
    split
    · exact k.internal _ _ h1 (.flag _ _)
    · rename_i g
      unfold admitFrame
      split
      · rename_i hr
        cases p with
        | u =>
          obtain ⟨hd, hu⟩ := Bool.and_eq_true_iff.1 hr
          have hd' : 0 < 16 - (setReceiver .u .idle s).link.dq.length := of_decide_eq_true hd
          have hu' : 0 < 16 - (setReceiver .u .idle s).link.uq.length := of_decide_eq_true hu
          exact k.handOn _ _ (fun _ => by omega) (hk _ rfl) (by omega) hn.2 h1
        | d =>
          have hu' : 0 < 16 - (setReceiver .d .idle s).link.uq.length := of_decide_eq_true hr
          exact k.handOn _ _ (fun h => by cases h) (hk _ rfl) (by omega) hn.2 h1
      · exact k.internal _ _ h1 (.flag _ _)

theorem receive (p : Port) (f : InFrame) {s : State} (hs : P s) : P (receive p f s) := by
  refine k.completeFrame _ _ ?_ hs
  intro g hg
  split at hg
  · rename_i hf
    cases hg
    exact (Bool.and_eq_true_iff.1 hf).2
  · cases hg

theorem receiveBytes (p : Port) (bytes : List Byte) {s : State} (hs : P s) : P (receiveBytes p bytes s) :=
  k.completeFrame _ _ (fun _ hg => checkFrame_kind hg) hs

theorem startFrame (p : Port) (run : List Byte) {s : State} (hs : P s) : P (startFrame p run s) := by
  unfold Machine.startFrame
  split
  · exact hs
  · dsimp only
    split
    · exact k.internal _ _ (k.receiver _ _ _ hs) (.flag _ _)
    · exact k.receiver _ _ _ hs

theorem setStopped (p : Port) (b : Bool) {s : State} (hs : P s) : P (setStopped p b s) := by
  unfold Machine.setStopped
  split
  · exact hs
  · cases p with
    | u => exact k.permits s b s.link.stoppedD hs
    | d => exact k.permits s s.link.stoppedU b hs

theorem uTxStart {s : State} (hs : P s) : P (uTxStart s) := by
  unfold Machine.uTxStart
  split
  · rename_i h
    refine k.uStart _ (fun e => ?_) hs
    simp [e] at h
  · exact hs

theorem uTxComplete {s : State} (hs : P s) : P (uTxComplete s) := by
  unfold Machine.uTxComplete
  split
  · split
    · rename_i h; exact k.uStop _ h hs
    · rename_i e rest h
      dsimp only
      split
      · rename_i ha
        obtain ⟨h1, h2⟩ := Bool.and_eq_true_iff.1 ha
        exact k.softReset _ e _ h h1 h2 hs
      · rename_i ha
        exact k.run (k.uDone _ e _ h (by simpa using ha) hs) (internals_servePending _)
  · exact hs

theorem dTxStart {s : State} (hs : P s) : P (dTxStart s) := by
  unfold Machine.dTxStart
  split
  · split
    · exact k.haltStart _ hs
    · split
      · exact hs
      · rename_i h
        exact k.dStart _ (fun e => h (by rw [e]; rfl)) hs
  · exact hs

theorem dTxComplete {s : State} (hs : P s) : P (dTxComplete s) := by
  unfold Machine.dTxComplete
  split
  · exact hs
  · exact k.haltDone _ hs
  · split
    · rename_i h; exact k.dStop _ h hs
    · rename_i f rest h
      refine k.run ?_ (internals_servePending _)
      have done := k.dDone s f rest h hs
      generalize { s with link := { s.link with txD := .idle, dq := rest }, wireD := s.wireD ++ [Wire.frame f.bytes] } = t at done ⊢
      unfold DFrame.whenSent
      split
      · unfold markSent
        split
        · exact done
        · rw [modifyCtx, evalPauses_setCtx]
          exact k.ofCtx _ _ done
      · exact done

theorem expireTimer (n : Fin 4) {s : State} (hs : P s) : P (expireTimer n s) := by
  unfold Machine.expireTimer
  dsimp only
  split
  · rename_i h
    have hr := k.reloadTimer s n (Bool.and_eq_true_iff.1 h).1 hs
    unfold timerAction
    split
    · exact k.internal _ _ hr (.flag _ _)
    · split
      · rename_i ho; exact k.internal _ _ hr (.drive _ _ ho)
      · exact hr
  · exact hs

theorem expireDeadline (c : Carriage) {s : State} (hs : P s) : P (expireDeadline c s) := by
  unfold Machine.expireDeadline
  dsimp only
  split
  · split
    · exact k.cause _ (k.ofCtx _ _ hs)
    · exact hs
  · exact hs

theorem expireHold (e : Fin 16) {s : State} (hs : P s) : P (expireHold e s) := by
  unfold Machine.expireHold
  split
  · split
    · exact k.run hs (internals_endHold _ _ _ _)
    · exact hs
  · exact hs

theorem evalWindows {s : State} (hs : P s) : P (evalWindows s) := by
  unfold Machine.evalWindows
  split
  · exact hs
  · rename_i hv
    have both : ∀ (l : List (Fin 16)) (t : State), t.time.timeInvalid = false → P t → P (l.foldl Machine.evalWindow t) := by
      intro l
      induction l with
      | nil => exact fun _ _ h => h
      | cons w l ih =>
        intro t ht h
        have time : ∀ e, (changeWindow w e t).time = (setWindow w e t).time := by
          intro e
          unfold changeWindow
          dsimp only
          split
          · rfl
          · split
            · rfl
            · exact (internals_withdrawForWindow _ _).traffic.time
        refine ih _ ?_ ?_
        · unfold Machine.evalWindow
          dsimp only
          split
          · rw [time]; exact ht
          · exact ht
        · unfold Machine.evalWindow
          dsimp only
          split
          · rename_i hu
            exact k.changedWindow _ _ (k.evalWindow _ _ _ ht hu h)
          · exact h
    exact both _ _ (by simpa using hv) hs

theorem event (e : TickEvent) {s : State} (hs : P s) : P (TickEvent.take s e) := by
  cases e with
  | pulses => exact k.pulses _ hs
  | stop => exact k.stop hs
  | timer n => exact k.expireTimer n hs
  | deadline c => exact k.expireDeadline c hs
  | hold e => exact k.expireHold e hs
  | windows => exact k.evalWindows hs

theorem takeTicks (t : Ticks) (b : Bool) {s : State} (hs : P s) : P (takeTicks t b s) := by
  unfold Machine.takeTicks
  generalize s.orderedEvents t b = l
  have hc := k.countTicks s t hs
  generalize Machine.countTicks t s = u at hc ⊢
  induction l generalizing u with
  | nil => exact hc
  | cons e l ih => exact ih _ (k.event e hc)

/-- Every command keeps the property, if the power-on and the line reset do. -/
theorem exec {c : Instr} {s t : State} (hs : P s) (hp : c = .powerOnReset → P (powerOn s)) (hl : c = .lineReset → P (lineReset s))
    (h : exec c s = .next t) : P t := by
  have arrived : ∀ p f, P (Machine.receive p f s) := fun p f => k.receive p f hs
  cases c
  case receiveCheckFail p bytes => cases h; exact k.receiveBytes _ _ hs
  case overrun p bytes => cases h; exact k.receiveBytes _ _ hs
  case softResetPendingDiscard p bytes => cases h; exact k.receiveBytes _ _ hs
  case frameAborted p run => cases h; exact k.startFrame _ _ hs
  case startSymbol p run => cases h; exact k.startFrame _ _ hs
  case pauseReceived p => cases h; exact k.setStopped _ _ hs
  case goReceived p => cases h; exact k.setStopped _ _ hs
  case uTxStart => cases h; exact k.uTxStart hs
  case uTxComplete => cases h; exact k.uTxComplete hs
  case dTxStart => cases h; exact k.dTxStart hs
  case dTxComplete => cases h; exact k.dTxComplete hs
  case baseTick raw =>
    cases h
    refine k.takeTicks _ _ (k.countBase _ _ ?_)
    unfold completePowerOn
    split
    · rename_i h; exact k.powerOnDone _ h hs
    · exact hs
  case tick100ms => cases h; exact k.takeTicks _ _ (k.divider _ hs)
  case secondUpdate => cases h; exact k.takeTicks _ _ (k.subSecond _ hs)
  case minuteUpdate => cases h; exact k.takeTicks _ _ (k.lastSecond _ hs)
  case cycleTimerExpiry n => cases h; exact k.expireTimer _ hs
  case moveDeadlineExpiry c => cases h; exact k.expireDeadline _ hs
  case holdExpiry e => cases h; exact k.expireHold _ hs
  case alertPulseEnd p =>
    cases h
    unfold Machine.endPulse
    split
    · exact k.endPulse _ _ hs
    · exact hs
  case stopnAssertion =>
    cases h
    unfold assertStopn
    split
    · exact hs
    · exact k.stop (k.stopn _ true hs)
  case stopnRelease =>
    cases h
    unfold releaseStopn
    split
    · exact k.stopn _ false hs
    · exact hs
  case powerOnReset => cases h; exact hp rfl
  case lineReset => cases h; exact hl rfl
  case lineResetRelease =>
    cases h
    unfold Machine.lineResetRelease
    split
    · rename_i h; exact k.lineDone s h hs
    · exact hs
  all_goals cases h; exact arrived _ _

/-- Every step keeps a property that both resets leave and that the queue of commands does not touch. -/
theorem step (hp : ∀ s, P s → P (powerOn s)) (hl : ∀ s, P s → P (lineReset s)) (hq : ∀ s q, P s → P { s with pending := q })
    {s t : State} (hs : P s) (h : step s = .next t) : P t :=
  step_keeps hq (fun _ _ _ hs => k.exec hs (fun _ => hp _ hs) (fun _ => hl _ hs)) hs h

end Kept

end Sys2Proof.Machine
end

