-- ==== Sys2Proof/Laws/Occupancy.lean ====
section
/-! SUPPORT. What the occupancy unit's operations do, as equations: HOLD_WARN, the verdict backlog, the offer of a zone, and the passes
of a re-examination. -/

namespace Sys2Proof.Machine

/-- HOLD_WARN's evaluation touches HOLD_WARN and governor control alone (R121). -/
theorem evalHoldWarn_eq (b : Bool) (s : State) :
    ∃ g w, evalHoldWarn b s = { s with gov := g, occ := { s.occ with holdWarn := w } } := by
  unfold evalHoldWarn
  split
  · exact ⟨_, _, rfl⟩
  · split <;> exact ⟨_, _, rfl⟩

/-- A pool entry freed is gone, and HOLD_WARN follows. -/
theorem freeEntry_eq (e : Fin 16) (s : State) :
    ∃ g w, freeEntry e s = { s with gov := g, occ := { s.occ with pool := s.occ.pool.set e.val none, holdWarn := w } } :=
  evalHoldWarn_eq false _

/-- A pool entry taken stands there, and HOLD_WARN follows. -/
theorem takeEntry_eq (e : Fin 16) (h : HoldEntry) (s : State) :
    ∃ g w, takeEntry e h s = { s with gov := g, occ := { s.occ with pool := s.occ.pool.set e.val (some h), holdWarn := w } } :=
  evalHoldWarn_eq true _

/-- With no record waiting, feeding does nothing (R120). -/
theorem feed_of_nil {s : State} (h : s.occ.backlog = []) : feed s = s := by unfold feed; rw [h]; rfl

/-- With UQ closed to internal insertions, feeding does nothing (R14, R120). -/
theorem feed_of_closed {s : State} (h : s.uqOpen = false) : feed s = s := by
  unfold feed
  generalize s.occ.backlog.length = n
  cases n with
  | zero => rfl
  | succ n =>
    unfold feedLoop
    split
    · rfl
    · rw [h]; rfl

/-- With UQ open the oldest record goes into UQ, its carriage owes no verdict any more, and the feeding goes on (R120). -/
theorem feed_of_cons {s : State} {r : BacklogRecord} {rest : List BacklogRecord} (hb : s.occ.backlog = r :: rest)
    (ho : s.uqOpen = true) : feed s = feed (modifyCtx r.carriage (fun x => { x with verdictOwed := false })
      (pushUq r.frame { s with occ := { s.occ with backlog := rest } })) := by
  have backlog : (modifyCtx r.carriage (fun x => { x with verdictOwed := false })
      (pushUq r.frame { s with occ := { s.occ with backlog := rest } })).occ.backlog = rest :=
    congrArg Occupancy.backlog (evalPauses_occ _)
  unfold feed
  rw [hb, backlog, List.length_cons, feedLoop, hb]
  simp only [ho, if_true]

/-- With UQ closed the record waits and its carriage owes a verdict (R119). -/
theorem appendRecord_of_closed (r : BacklogRecord) {s : State} (h : s.uqOpen = false) :
    appendRecord r s = modifyCtx r.carriage (fun x => { x with verdictOwed := true })
      { s with occ := { s.occ with backlog := s.occ.backlog ++ [r] } } :=
  feed_of_closed (s := modifyCtx r.carriage (fun x => { x with verdictOwed := true })
    { s with occ := { s.occ with backlog := s.occ.backlog ++ [r] } }) h

/-- With UQ open and no record before it, the record goes into UQ at once (R119, R120). -/
theorem appendRecord_of_open (r : BacklogRecord) {s : State} (h : s.uqOpen = true) (hb : s.occ.backlog = []) :
    appendRecord r s = modifyCtx r.carriage (fun x => { x with verdictOwed := false })
      (pushUq r.frame (modifyCtx r.carriage (fun x => { x with verdictOwed := true }) s)) := by
  unfold appendRecord feed
  generalize hq : modifyCtx r.carriage (fun x => { x with verdictOwed := true })
    { s with occ := { s.occ with backlog := s.occ.backlog ++ [r] } } = q
  have one : q.occ.backlog = [r] := by rw [← hq]; show s.occ.backlog ++ [r] = [r]; rw [hb]; rfl
  have op : q.uqOpen = true := by rw [← hq]; exact h
  rw [one]
  show feedLoop 1 q = _
  unfold feedLoop
  rw [one]
  simp only [op, if_true, feedLoop]
  subst hq
  congr 2
  unfold modifyCtx setCtx
  rw [← hb]; rfl

/-- The floor zone is never offered (R106, R108). -/
theorem offer_floor (s : State) : offer 64 s = s := by unfold offer; rw [dif_neg]; decide

/-- The offer of a zone that has a wait list (R106). -/
theorem offer_zone (z : ZoneIndex) (s : State) : offer z.castSucc s =
    if s.occ.waits[z].isEmpty then setRecheck z false s else if s.hasRoom z.castSucc then reexamine z s else s := by
  unfold offer; rw [dif_pos (show z.castSucc.val < 64 from z.isLt)]; rfl

/-- A re-examination whose conditions do not all hold makes no pass, and writes the pending mark (R110, R112). -/
theorem reexamine_of_blocked {z : ZoneIndex} {s : State} (h : s.passAllowed z = false) : reexamine z s = markRecheck z s := by
  unfold reexamine
  cases s.occ.waits[z].length with
  | zero => rfl
  | succ n => rw [passLoop, h]; rfl

/-- The record of the end of a hold changes no wait list. -/
theorem appendRecord_waits (r : BacklogRecord) (s : State) : (appendRecord r s).occ.waits = s.occ.waits :=
  (calm_appendRecord r s).waits

/-- An entry freed changes no wait list. -/
theorem freeEntry_waits (e : Fin 16) (s : State) : (freeEntry e s).occ.waits = s.occ.waits := by
  obtain ⟨g, w, h⟩ := freeEntry_eq e s
  rw [h]

/-- A pass takes the head off its zone's wait list and changes no other list (R111). -/
theorem pass_waits (z : ZoneIndex) (e : Fin 16) (h : HoldEntry) (rest : List (Fin 16)) (s : State) :
    (Machine.pass z e h rest s).occ.waits = s.occ.waits.set z.val rest := by
  unfold Machine.pass
  refine (appendRecord_waits _ _).trans ((freeEntry_waits _ _).trans ?_)
  exact congrArg Occupancy.waits (evalPauses_occ _)

/-- A re-examination whose conditions hold makes a pass and goes on from what the pass leaves (R110, R111). -/
theorem reexamine_of_pass {z : ZoneIndex} {e : Fin 16} {rest : List (Fin 16)} {h : HoldEntry} {s : State}
    (hw : s.occ.waits[z] = e :: rest) (hp : s.occ.pool[e] = some h) (ha : s.passAllowed z = true) :
    reexamine z s = reexamine z (Machine.pass z e h rest s) := by
  have left : (Machine.pass z e h rest s).occ.waits[z] = rest := by simp [pass_waits]
  unfold reexamine
  rw [left, hw, List.length_cons, passLoop, if_pos ha, hw]
  simp only [hp]

/-- A zone's claim count after a grant (R105). -/
theorem claimCount_grantClaim (z z' : Zone) (s : State) :
    (grantClaim z s).claimCount z' = if z = z' then s.claimCount z + 1 else s.claimCount z' := by
  simp only [State.claimCount, grantClaim_occ, Fin.getElem_fin, Vector.getElem_set, Fin.ext_iff]

/-- A zone's claim count after a release (R106). -/
theorem claimCount_dropClaim (z z' : Zone) (s : State) :
    (dropClaim z s).claimCount z' = if z = z' then s.claimCount z - 1 else s.claimCount z' := by
  simp only [State.claimCount, dropClaim_occ, Fin.getElem_fin, Vector.getElem_set, Fin.ext_iff]

end Sys2Proof.Machine
end

