-- ==== Sys2Proof/WellFormed.lean ====
section
/-! DEFINITION. Which commands a peer's frame can spell: the lengths of R2 and R5. Every other operand has a type that
holds exactly its range, so no further check is needed (R3: every header value is taken as a value). -/

namespace Sys2Proof

/-- A command is well formed when its frame's payload fits the 0..40 bytes of R2 (for a management request, 0..38
operand bytes, R5). Reception rows carry whatever bytes came in, which R7 bounds itself. -/
def Instr.wellFormed : Instr → Bool
  | .transit _ _ payload => payload.length ≤ 40
  | .mgmtReq _ _ _ ops
  | .readStatus _ _ ops | .clearFlags _ _ ops | .setAlert _ _ ops | .readAlert _ _ ops | .readCause _ _ ops
  | .startReq _ _ ops | .stopReq _ _ ops | .resumeReq _ _ ops | .endReq _ _ ops
  | .setFloor _ _ ops | .readFloor _ _ ops | .writeZone _ _ ops | .readZone _ _ ops
  | .writeSource _ _ ops | .readSource _ _ ops
  | .enroll _ _ ops | .withdrawCarriage _ _ ops | .releaseCarriage _ _ ops | .readCarriage _ _ ops
  | .findTag _ _ ops | .readWaitlist _ _ ops | .readOccupancy _ _ ops
  | .setTime _ _ ops | .readTime _ _ ops | .writeWindow _ _ ops | .readWindow _ _ ops
  | .writeTimer _ _ ops | .readTimer _ _ ops | .lockReq _ _ ops | .resetReq _ _ ops => ops.length ≤ 38
  | .moveAbs .. | .moveRel .. | .setup .. | .stopCarriage .. | .done .. | .contact ..
  | .receiveCheckFail .. | .overrun .. | .frameAborted .. | .softResetPendingDiscard ..
  | .pauseReceived .. | .goReceived .. | .uTxStart | .uTxComplete | .dTxStart | .dTxComplete
  | .baseTick .. | .tick100ms | .secondUpdate | .minuteUpdate
  | .cycleTimerExpiry .. | .moveDeadlineExpiry .. | .holdExpiry .. | .alertPulseEnd ..
  | .stopnAssertion | .stopnRelease | .powerOnReset | .lineReset | .lineResetRelease
  | .startSymbol .. => true

end Sys2Proof
end

