-- ==== Sys2Proof/Laws/PerInstr.lean ====
section
/-! SUPPORT. Per-command facts of the family Fits: a command that carries a frame is well formed exactly when that frame's
payload fits the frame format (R2). -/

/-- When `i` is the arrival of a frame, or a request of the catalogue, it is well formed exactly if the frame fits. -/
def Sys2Proof.Laws.Fits.Statement (i : Sys2Proof.Instr) : Prop :=
  (∀ (p : Sys2Proof.Port) (f : Sys2Proof.Machine.InFrame), f.command p = i → i.wellFormed = f.fits) ∧
  (∀ (r : Sys2Proof.Machine.Request) (h : Sys2Proof.Header) (rid : Sys2Proof.Byte) (ops : List Sys2Proof.Byte),
    r.command h rid ops = i → i.wellFormed = Sys2Proof.Machine.InFrame.fits (.mgmtReq h r.code rid ops))

namespace Sys2Proof.Laws.Fits

open Sys2Proof Sys2Proof.Machine

/-- A frame's own command is well formed exactly if the frame fits. -/
theorem of_frame (p : Port) (f : InFrame) : (f.command p).wellFormed = f.fits := by
  cases f <;> simp [InFrame.command, Instr.wellFormed, InFrame.fits, InFrame.payload, pointBytes, coordBytes, wordBytes] <;>
    first | rfl | omega

/-- A request's command is well formed exactly if its MGMT_REQ fits. -/
theorem of_request (r : Request) (h : Header) (rid : Byte) (ops : List Byte) :
    (r.command h rid ops).wellFormed = InFrame.fits (.mgmtReq h r.code rid ops) := by
  cases r <;> simp [Request.command, Instr.wellFormed, InFrame.fits, InFrame.payload] <;> omega

/-- The statement holds of every command. -/
theorem all (i : Instr) : Statement i :=
  ⟨fun p f h => by rw [← h]; exact of_frame p f, fun r h rid ops e => by rw [← e]; exact of_request r h rid ops⟩

theorem moveAbs (h : Header) (x y : Coord) (speed : Speed) (via : Byte) : Statement (.moveAbs h x y speed via) := all _
theorem moveRel (h : Header) (dx dy : Coord) (speed : Speed) (via : Byte) : Statement (.moveRel h dx dy speed via) := all _
theorem setup (h : Header) (enables scale turn : Byte) (offset : Point) (tag : Byte) : Statement (.setup h enables scale turn offset tag) := all _
theorem stopCarriage (h : Header) : Statement (.stopCarriage h) := all _
theorem transit (p : Port) (h : Header) (payload : List Byte) : Statement (.transit p h payload) := all _
theorem done (h : Header) (at_ : Point) (stopped : Byte) : Statement (.done h at_ stopped) := all _
theorem contact (h : Header) (at_ : Point) : Statement (.contact h at_) := all _
theorem mgmtReq (h : Header) (request rid : Byte) (ops : List Byte) : Statement (.mgmtReq h request rid ops) := all _
theorem receiveCheckFail (p : Port) (bytes : List Byte) : Statement (.receiveCheckFail p bytes) := all _
theorem overrun (p : Port) (bytes : List Byte) : Statement (.overrun p bytes) := all _
theorem frameAborted (p : Port) (run : List Byte) : Statement (.frameAborted p run) := all _
theorem softResetPendingDiscard (p : Port) (bytes : List Byte) : Statement (.softResetPendingDiscard p bytes) := all _
theorem pauseReceived (p : Port) : Statement (.pauseReceived p) := all _
theorem goReceived (p : Port) : Statement (.goReceived p) := all _
theorem uTxStart : Statement (.uTxStart) := all _
theorem uTxComplete : Statement (.uTxComplete) := all _
theorem dTxStart : Statement (.dTxStart) := all _
theorem dTxComplete : Statement (.dTxComplete) := all _
theorem baseTick (stopnLow : Bool) : Statement (.baseTick stopnLow) := all _
theorem tick100ms : Statement (.tick100ms) := all _
theorem secondUpdate : Statement (.secondUpdate) := all _
theorem minuteUpdate : Statement (.minuteUpdate) := all _
theorem cycleTimerExpiry (n : Fin 4) : Statement (.cycleTimerExpiry n) := all _
theorem moveDeadlineExpiry (c : Carriage) : Statement (.moveDeadlineExpiry c) := all _
theorem holdExpiry (e : Fin 16) : Statement (.holdExpiry e) := all _
theorem alertPulseEnd (p : Fin 5) : Statement (.alertPulseEnd p) := all _
theorem stopnAssertion : Statement (.stopnAssertion) := all _
theorem stopnRelease : Statement (.stopnRelease) := all _
theorem powerOnReset : Statement (.powerOnReset) := all _
theorem lineReset : Statement (.lineReset) := all _
theorem lineResetRelease : Statement (.lineResetRelease) := all _
theorem readStatus (h : Header) (rid : Byte) (ops : List Byte) : Statement (.readStatus h rid ops) := all _
theorem clearFlags (h : Header) (rid : Byte) (ops : List Byte) : Statement (.clearFlags h rid ops) := all _
theorem setAlert (h : Header) (rid : Byte) (ops : List Byte) : Statement (.setAlert h rid ops) := all _
theorem readAlert (h : Header) (rid : Byte) (ops : List Byte) : Statement (.readAlert h rid ops) := all _
theorem readCause (h : Header) (rid : Byte) (ops : List Byte) : Statement (.readCause h rid ops) := all _
theorem startReq (h : Header) (rid : Byte) (ops : List Byte) : Statement (.startReq h rid ops) := all _
theorem stopReq (h : Header) (rid : Byte) (ops : List Byte) : Statement (.stopReq h rid ops) := all _
theorem resumeReq (h : Header) (rid : Byte) (ops : List Byte) : Statement (.resumeReq h rid ops) := all _
theorem endReq (h : Header) (rid : Byte) (ops : List Byte) : Statement (.endReq h rid ops) := all _
theorem setFloor (h : Header) (rid : Byte) (ops : List Byte) : Statement (.setFloor h rid ops) := all _
theorem readFloor (h : Header) (rid : Byte) (ops : List Byte) : Statement (.readFloor h rid ops) := all _
theorem writeZone (h : Header) (rid : Byte) (ops : List Byte) : Statement (.writeZone h rid ops) := all _
theorem readZone (h : Header) (rid : Byte) (ops : List Byte) : Statement (.readZone h rid ops) := all _
theorem writeSource (h : Header) (rid : Byte) (ops : List Byte) : Statement (.writeSource h rid ops) := all _
theorem readSource (h : Header) (rid : Byte) (ops : List Byte) : Statement (.readSource h rid ops) := all _
theorem enroll (h : Header) (rid : Byte) (ops : List Byte) : Statement (.enroll h rid ops) := all _
theorem withdrawCarriage (h : Header) (rid : Byte) (ops : List Byte) : Statement (.withdrawCarriage h rid ops) := all _
theorem releaseCarriage (h : Header) (rid : Byte) (ops : List Byte) : Statement (.releaseCarriage h rid ops) := all _
theorem readCarriage (h : Header) (rid : Byte) (ops : List Byte) : Statement (.readCarriage h rid ops) := all _
theorem findTag (h : Header) (rid : Byte) (ops : List Byte) : Statement (.findTag h rid ops) := all _
theorem readWaitlist (h : Header) (rid : Byte) (ops : List Byte) : Statement (.readWaitlist h rid ops) := all _
theorem readOccupancy (h : Header) (rid : Byte) (ops : List Byte) : Statement (.readOccupancy h rid ops) := all _
theorem setTime (h : Header) (rid : Byte) (ops : List Byte) : Statement (.setTime h rid ops) := all _
theorem readTime (h : Header) (rid : Byte) (ops : List Byte) : Statement (.readTime h rid ops) := all _
theorem writeWindow (h : Header) (rid : Byte) (ops : List Byte) : Statement (.writeWindow h rid ops) := all _
theorem readWindow (h : Header) (rid : Byte) (ops : List Byte) : Statement (.readWindow h rid ops) := all _
theorem writeTimer (h : Header) (rid : Byte) (ops : List Byte) : Statement (.writeTimer h rid ops) := all _
theorem readTimer (h : Header) (rid : Byte) (ops : List Byte) : Statement (.readTimer h rid ops) := all _
theorem lockReq (h : Header) (rid : Byte) (ops : List Byte) : Statement (.lockReq h rid ops) := all _
theorem resetReq (h : Header) (rid : Byte) (ops : List Byte) : Statement (.resetReq h rid ops) := all _
theorem startSymbol (p : Port) (run : List Byte) : Statement (.startSymbol p run) := all _

end Sys2Proof.Laws.Fits
end

