-- ==== Sys2Proof/Laws/Ticks.lean ====
section
/-! SUPPORT. What a tick brings: its effects are taken once each, the hold expiries in index order, whatever the free order of
log 7; and what each effect leaves of the time unit. -/

namespace Sys2Proof.Machine

/-! ### The order of a tick's effects -/

/-- A drawn order holds the same effects, each once. -/
theorem shuffle_perm (n fuel draw : Nat) (l : List TickEvent) : (shuffle n fuel draw l).Perm l := by
  induction fuel generalizing draw l with
  | zero => rcases l with _ | ⟨a, _ | ⟨b, l⟩⟩ <;> exact .refl _
  | succ fuel ih =>
    rcases l with _ | ⟨a, _ | ⟨b, l⟩⟩
    · exact .refl _
    · exact .refl _
    · unfold shuffle
      have hk : Config.tickChoice n draw % (l.length + 2) < (a :: b :: l).length := Nat.mod_lt _ (by omega)
      generalize Config.tickChoice n draw % (l.length + 2) = k at hk ⊢
      dsimp only
      rw [List.getD_eq_getElem _ _ hk]
      exact ((ih _ _).cons _).trans (List.getElem_cons_eraseIdx_perm hk)

/-- A merge holds the effects of both lists, each once. -/
theorem riffle_perm (n fuel draw : Nat) (as bs : List TickEvent) : (riffle n fuel draw as bs).Perm (as ++ bs) := by
  induction fuel generalizing draw as bs with
  | zero => cases as <;> cases bs <;> simp [riffle]
  | succ fuel ih =>
    rcases as with _ | ⟨a, as⟩
    · simp [riffle]
    rcases bs with _ | ⟨b, bs⟩
    · simp [riffle]
    unfold riffle
    split
    · exact (ih _ _ _).cons _
    · exact ((ih _ _ _).cons _).trans List.perm_middle.symm

/-- A merge keeps the order of the second list. -/
theorem riffle_sublist (n fuel draw : Nat) (as bs : List TickEvent) : bs.Sublist (riffle n fuel draw as bs) := by
  induction fuel generalizing draw as bs with
  | zero =>
    cases as <;> cases bs <;> simp [riffle]
  | succ fuel ih =>
    rcases as with _ | ⟨a, as⟩
    · simp [riffle]
    rcases bs with _ | ⟨b, bs⟩
    · exact List.nil_sublist _
    unfold riffle
    split
    · exact (ih _ _ _).cons _
    · exact (ih _ _ _).cons_cons _

/-- A tick takes each of its effects once. -/
theorem orderedEvents_perm (s : State) (t : Ticks) (assertion : Bool) :
    (s.orderedEvents t assertion).Perm (s.looseEvents t assertion ++ s.holdEvents t) :=
  (riffle_perm _ _ _ _ _).trans ((shuffle_perm _ _ _ _).append_right _)

/-- A tick takes its hold expiries in increasing index order (R113). -/
theorem holdEvents_sublist (s : State) (t : Ticks) (assertion : Bool) : (s.holdEvents t).Sublist (s.orderedEvents t assertion) :=
  riffle_sublist _ _ _ _ _

/-- Hold expiries alone need no draw. -/
theorem orderedEvents_of_holds {s : State} {t : Ticks} {assertion : Bool} (h : s.looseEvents t assertion = []) :
    s.orderedEvents t assertion = s.holdEvents t := by
  unfold State.orderedEvents
  rw [h]
  unfold shuffle riffle
  rfl

/-- One effect alone needs no draw. -/
theorem orderedEvents_of_single {s : State} {t : Ticks} {assertion : Bool} {a : TickEvent} (h : s.looseEvents t assertion = [a])
    (hh : s.holdEvents t = []) : s.orderedEvents t assertion = [a] := by
  unfold State.orderedEvents
  rw [h, hh]
  rfl

/-! ### The time unit under the effects of a tick -/

theorem haltEntry_time (s : State) : (haltEntry s).time = s.time := (calm_haltEntry s).time

theorem takeCause_time (k : Cause) (s : State) : (takeCause k s).time = s.time := by
  rcases takeCause_cases k s with h | ⟨-, h⟩ <;> rw [h]
  · rfl
  · exact haltEntry_time _

theorem takeStop_time (s : State) : (takeStop s).time = s.time := by
  unfold takeStop
  split
  · rfl
  · exact haltEntry_time _
  · rfl

theorem endHold_time (v : Verdict) (r : Reason) (e : Fin 16) (s : State) : (endHold v r e s).time = s.time :=
  (internals_endHold v r e s).traffic.time

theorem expireDeadline_time (c : Carriage) (s : State) : (expireDeadline c s).time = s.time := by
  unfold expireDeadline
  dsimp only
  split
  · split
    · exact takeCause_time _ _
    · rfl
  · rfl

theorem expireHold_time (e : Fin 16) (s : State) : (expireHold e s).time = s.time := by
  unfold expireHold
  split
  · split
    · exact endHold_time ..
    · rfl
  · rfl

theorem changeWindow_timers (w : Fin 16) (e : WindowEntry) (s : State) : (changeWindow w e s).time.timers = s.time.timers := by
  unfold changeWindow
  dsimp only
  split
  · rfl
  · split
    · rfl
    · rw [(internals_withdrawForWindow w _).traffic.time]; rfl

theorem evalWindow_timers (s : State) (w : Fin 16) : (evalWindow s w).time.timers = s.time.timers := by
  unfold evalWindow
  dsimp only
  split
  · exact changeWindow_timers ..
  · rfl

theorem evalWindows_timers (s : State) : (evalWindows s).time.timers = s.time.timers := by
  have all : ∀ (l : List (Fin 16)) (u : State), (l.foldl evalWindow u).time.timers = u.time.timers := by
    intro l
    induction l with
    | nil => exact fun _ => rfl
    | cons w l ih => exact fun u => (ih _).trans (evalWindow_timers u w)
  unfold evalWindows
  split
  · rfl
  · exact all _ _

theorem timerAction_time (n : Fin 4) (a : TimerAction) (s : State) : (timerAction n a s).time = s.time := by
  unfold timerAction
  split
  · rfl
  · split
    · exact (traffic_pushDq _ _).time
    · rfl

/-- An expiring timer is loaded from its preset, and no other timer changes (R139). -/
theorem expireTimer_timers (n : Fin 4) (s : State) : (expireTimer n s).time.timers =
    if s.time.timers[n].enabled = true ∧ s.time.timers[n].counter = 1 then
      s.time.timers.set n.val { s.time.timers[n] with counter := s.time.timers[n].preset }
    else s.time.timers := by
  unfold expireTimer
  dsimp only
  by_cases h : s.time.timers[n].enabled = true ∧ s.time.timers[n].counter = 1
  · rw [if_pos (by simpa using h), if_pos h, timerAction_time]; rfl
  · rw [if_neg (by simpa using h), if_neg h]

/-- An effect of a tick that is no timer's expiry changes no timer (R139). -/
theorem take_timers {a : TickEvent} (h : ∀ n, a ≠ .timer n) (s : State) : (TickEvent.take s a).time.timers = s.time.timers := by
  cases a with
  | timer n => exact absurd rfl (h n)
  | pulses => rfl
  | stop => exact congrArg TimeUnit.timers (takeStop_time s)
  | deadline c => exact congrArg TimeUnit.timers (expireDeadline_time c s)
  | hold e => exact congrArg TimeUnit.timers (expireHold_time e s)
  | windows => exact evalWindows_timers s

end Sys2Proof.Machine
end

