-- ==== Sys2Proof/Tests/Slice0.lean ====
section
/-! SUPPORT. Tests on small states: the examples of the spec, a check of each command, and for every obligation with hypotheses a
state and operands that meet them. -/

namespace Sys2Proof.Tests

open Sys2Proof Sys2Proof.Machine

set_option Elab.async false

/-! ### Small states -/

/-- A header with sequence 7. -/
def hdr (source : Source) (carriage : Carriage) (level : Level) : Header := { source, carriage, level, sequence := 7 }

/-- The header of source 0, carriage 3, level 0. -/
def h3 : Header := hdr 0 3 0

/-- A point. -/
def pt (x y : Int) : Point := { x := BitVec.ofInt 24 x, y := BitVec.ofInt 24 y }

/-- A box. -/
def box (x0 y0 x1 y1 : Int) : Box :=
  { x0 := BitVec.ofInt 24 x0, y0 := BitVec.ofInt 24 y0, x1 := BitVec.ofInt 24 x1, y1 := BitVec.ofInt 24 y1 }

/-- The descriptors of 10.1. -/
def zones : Vector Descriptor 64 :=
  ((((Vector.replicate 64 Descriptor.void).set 0 (.place
    { guarded := true, box := box 20000 20000 30000 30000, guardLevel := 1, capacity := 1, speedLimit := 400, policy := .clip,
      holdLimit := 30, window := none })).set 1 (.place
    { guarded := true, box := box 15000 15000 35000 35000, guardLevel := 2, capacity := 3, speedLimit := 800, policy := .refuse,
      holdLimit := 0, window := none })).set 2 (.place
    { guarded := false, box := box 40000 0 60000 20000, guardLevel := 3, capacity := 2, speedLimit := 0, policy := .clip,
      holdLimit := 20, window := some 4 })).set 10 (.portal 64 1 2)

/-- A parked carriage at a point of a zone. -/
def parked (p : Point) (z : Zone) : Context := { Context.unenrolled with state := .parked, position := p, zone := z, moveLimit := 40 }

/-- The part of 10.1, governing, with carriage 3 parked at (5000, 5000) on the floor zone. -/
def part : State :=
  { State.reset with
    table := { descriptors := zones.set 11 (.portal 1 0 1), floorBox := box 0 0 80000 50000, floorValid := true }
    sources := sourcesReset.set 2 { enabled := true, ceiling := 1, mayManage := false }
    carriages := (Vector.replicate 32 Context.unenrolled).set 3 (parked (pt 5000 5000) 64)
    occ := { Occupancy.reset with claims := Occupancy.reset.claims.set 64 1 }
    time := { TimeUnit.reset with
      timeInvalid := false
      windows := (Vector.replicate 16 WindowEntry.unused).set 4
        { inUse := true, openPattern := { Pattern.zero with month := 0xFF }, closePattern := .zero, isOpen := true } }
    gov := { Governor.reset with state := .governing } }

/-- The state a command leaves. -/
def after (c : Instr) (s : State) : State :=
  match exec c s with
  | .next t => t
  | _ => s

/-- The frames of UQ. -/
def answers (s : State) : List UFrame := s.link.uq.map (·.frame)


/-- A management request of source 0 is answered with a status and data. -/
def answered (c : Instr) (s : State) (status : Status) (data : List Byte) : Bool :=
  (answers (after c s)).any fun f =>
    match f with
    | .mgmtRsp _ _ _ st d => st = status && d = data
    | _ => false

/-- The part in another governor state. -/
def inState (g : GovernorState) (s : State) : State := { s with gov := { s.gov with state := g } }

/-- The part with its configuration locked. -/
def locked (s : State) : State := { s with gov := { s.gov with lock := true } }

/-- The part with a soft reset pending. -/
def softPending (s : State) : State := { s with gov := { s.gov with softPending := true } }

/-- The record of a move of carriage 3 from the floor zone into zone 2. -/
def record : InFlight :=
  { source := 0, sequence := 7, level := 0, target := pt 50000 10000, targetZone := 2, originZone := 64, entry := true, pops := 0,
    push := none, deadline := some 40, sent := true }

/-- Carriage 3 is MOVING with a record. -/
def moving (r : InFlight) (s : State) : State := setCtx 3 { parked (pt 5000 5000) 64 with state := .moving, inFlight := some r } s

/-- Carriage 3 is FAULTED with a record. -/
def faulted (r : InFlight) (s : State) : State :=
  setCtx 3 { parked (pt 5000 5000) 64 with state := .faulted, faultCause := some .timeout, inFlight := some r } s

/-- The hold of carriage 3 before zone 2. -/
def entry : HoldEntry :=
  { carriage := 3, source := 0, sequence := 7, level := 0, adjusted := false, target := pt 50000 10000, zone := 2, speed := 500,
    clipped := false, pops := 0, push := none, remaining := 1 }

/-- Carriage 3 is HELD by pool entry 0 before zone 2. -/
def held (s : State) : State :=
  setCtx 3 { parked (pt 5000 5000) 64 with state := .held, holdRef := some 0 }
    { s with occ := { s.occ with pool := s.occ.pool.set 0 (some entry), waits := s.occ.waits.set 2 [0] } }

/-- Zone 2 has its two claims. -/
def full (s : State) : State := { s with occ := { s.occ with claims := s.occ.claims.set 2 2 } }

/-- A UQ of `n` frames. -/
def uqOf (n : Nat) (s : State) : State :=
  { s with link := { s.link with uq := List.replicate n { frame := .transit h3 [], answersReset := false } } }

/-- A DQ of `n` frames. -/
def dqOf (n : Nat) (s : State) : State := { s with link := { s.link with dq := List.replicate n (.transit h3 []) } }

/-- The part with timer 2 enabled. -/
def timing (source : TimerSource) (counter : BitVec 16) (s : State) : State :=
  { s with time := { s.time with
    timers := s.time.timers.set 2 { enabled := true, source, preset := 9, action := .event, counter } } }

/-- A part that takes frames and that source 0 manages. -/
theorem part_taken : part.TakesU ∧ part.TakesD ∧ part.Manages h3 := by
  unfold State.TakesU State.TakesD State.Receiving State.Manages; decide

/-! ### Well-formedness refuses what no frame can hold -/

theorem test_wellFormed_transit : Instr.wellFormed (.transit .u h3 (List.replicate 40 0)) = true := by decide

theorem test_illFormed_transit : Instr.wellFormed (.transit .u h3 (List.replicate 41 0)) = false := by decide

theorem test_wellFormed_request : Instr.wellFormed (.readStatus h3 0 (List.replicate 38 0)) = true := by decide

theorem test_illFormed_request : Instr.wellFormed (.readStatus h3 0 (List.replicate 39 0)) = false := by decide

/-! ### The link -/

theorem test_header_example :
    (frameBody 0x21 { source := 2, carriage := 5, level := 1, sequence := 7 } (List.replicate 9 0)).take 4 = [0x21, 0x45, 0x49, 0x07] := by
  decide +kernel

theorem test_crc_vector : crc16 [0x31, 0x32, 0x33, 0x34, 0x35, 0x36, 0x37, 0x38, 0x39] = 0x29B1 := by decide +kernel

theorem test_verdict_layout :
    (UFrame.verdict (hdr 2 5 1) .refused .noRoom true 0x0102).bytes.take 9 = [0x61, 0x45, 0x45, 0x07, 0x04, 0x0F, 0x01, 0x01, 0x02] := by
  decide +kernel

theorem test_halt_all_layout : haltAllBytes.take 4 = [0x45, 0x00, 0x00, 0x00] := by decide +kernel

theorem test_no_row_has_a_word : decodeTableWord 8 0x21 = none := rfl

theorem test_bad_check_sets_linkerr : (after (.receiveCheckFail .u [0x24, 0, 0, 0, 0, 0]) part).gov.flags = 0x040 := by decide +kernel

theorem test_overrun_sets_linkerr :
    (after (.overrun .d (InFrame.contact h3 (pt 0 0)).bytes) (uqOf 16 part)).gov.flags = 0x040 := by decide +kernel

theorem test_pending_reset_discards : after (.softResetPendingDiscard .u [1]) (softPending part) = softPending part := by decide +kernel

theorem test_start_symbol : (after (.startSymbol .u [0x21]) part).link.rxU = { receiving := true, buffer := [0x21], overlong := false } := by
  decide

theorem test_abort : (after (.frameAborted .u []) (after (.startSymbol .u [0x21]) part)).gov.flags = 0x040 := by decide

theorem test_pause_at_two_free : (after (.transit .d h3 []) (uqOf 13 part)).wireU = [.pause] := by decide +kernel

theorem test_no_pause_at_three_free : (after (.transit .d h3 []) (uqOf 12 part)).wireU = [] := by decide +kernel

theorem test_stopped_begins_nothing : (after .uTxStart (after (.pauseReceived .u) (uqOf 1 part))).link.sendingU = false := by decide

theorem test_halt_all_first :
    (after .dTxStart (dqOf 1 { part with link := { part.link with haltSlot := true } })).link.txD = .haltAll := by decide

/-! ### Translation (2.5) -/

/-- Carriage 6 of 2.5 with a turn. -/
def carriage6 (turn : Fin 4) : Context :=
  { parked (pt 12000 5000) 64 with scale := 4, turn, offset := pt (-20000) 3000 }

/-- The floor of 2.5. -/
def floor25 : ZoneTable := { ZoneTable.reset with floorBox := box 0 0 60000 40000, floorValid := true }

theorem test_relative_turns :
    (List.finRange 4).map (fun t => translateRel floor25 (carriage6 t) 250 (BitVec.ofInt 24 (-100))) =
      [some (pt 13000 4600), some (pt 12400 6000), some (pt 11000 5400), some (pt 11600 4000)] := by decide

theorem test_absolute : translateAbs floor25 (carriage6 1) 30000 36000 = some (pt 10000 39000) := by decide

theorem test_absolute_edge : translateAbs floor25 (carriage6 1) 30000 37500 = none := by decide

/-! ### Moves (10.2) -/

theorem test_move_1_forwarded :
    (after (.moveAbs (hdr 2 3 1) 17000 17000 700 0x0A) part).link.dq = [.driveMove (hdr 2 3 1) (pt 17000 17000) 700] := by decide

theorem test_move_1_claims :
    (after (.moveAbs (hdr 2 3 1) 17000 17000 700 0x0A) part).occ.claims = part.occ.claims.set 1 1 := by decide +kernel

theorem test_direct_refused :
    answers (after (.moveAbs (hdr 2 3 1) 17000 17000 700 0xFF) part) = [.verdict (hdr 2 3 1) .refused .level false 0] := by decide

theorem test_relative_move :
    (after (.moveRel (hdr 2 3 1) 100 (BitVec.ofInt 24 (-5000)) 900 0xFF) part).link.dq = [.driveMove (hdr 2 3 1) (pt 5100 0) 900] := by
  decide

theorem test_edge_halts : (after (.moveRel (hdr 2 3 1) 100 (BitVec.ofInt 24 (-5001)) 900 0xFF) part).gov.state = .halted := by decide

theorem test_full_zone_holds :
    answers (after (.moveAbs h3 50000 10000 500 0xFF) (full part)) = [.verdict h3 .held .none false 500] := by decide +kernel

theorem test_stop_withdraws :
    answers (after (.stopCarriage h3) (held part)) = [.verdict h3 .withdrawn .stop false 500] := by decide +kernel

theorem test_setup_scale_17_refused :
    answers (after (.setup h3 0x01 17 0 (pt 0 0) 0) part) = [.verdict h3 .refused .badValue false 0] := by decide

theorem test_commit : ((after (.done h3 (pt 50000 10000) 0) (moving record part)).ctx 3).zone = 2 := by decide +kernel

theorem test_contact_up :
    answers (after (.contact h3 (pt 17000 17000)) part) = [.contactUp h3 (pt 17000 17000) 0 1] := by decide +kernel

theorem test_purge_cancels :
    answers (after (.stopReq h3 0x2A [])
      (moving { record with sent := false } { part with link := { part.link with dq := [.driveMove h3 (pt 50000 10000) 500] } })) =
    [.verdict h3 .cancelled .halted false 0, .mgmtRsp h3 0x11 0x2A .ok []] := by decide +kernel

/-! ### Time -/

theorem test_year_rolls :
    Calendar.advance { seconds := 0x59, minutes := 0x59, hours := 0x23, weekday := 0x40, day := 0x31, month := 0x12, year := 0x99 } =
      { seconds := 0x00, minutes := 0x00, hours := 0x00, weekday := 0x01, day := 0x01, month := 0x01, year := 0x00 } := by decide

theorem test_leap_day :
    (Calendar.advance { seconds := 0x59, minutes := 0x59, hours := 0x23, weekday := 0x01, day := 0x28, month := 0x02, year := 0x24 }).day =
      0x29 := by decide

theorem test_four_samples_halt : (after (.baseTick true) { part with gov := { part.gov with stopnCount := 3 } }).gov.state = .halted := by
  decide +kernel

theorem test_three_samples_do_not : (after (.baseTick true) { part with gov := { part.gov with stopnCount := 2 } }).gov.state = .governing := by
  decide +kernel

theorem test_hold_expires :
    answers (after .tick100ms (held part)) = [.verdict h3 .expired .none false 500] := by decide +kernel

theorem test_deadline_expires : ((after .tick100ms (moving { record with deadline := some 1 } part)).ctx 3).state = .faulted := by
  decide +kernel

theorem test_100ms_tick_is_a_10ms_tick :
    (after .tick100ms (timing .ms10 7 part)).time.timers[2].counter = 6 := by decide +kernel

theorem test_second_update_counts_timers :
    (after .secondUpdate (timing .s1 1 part)).time.timers[2].counter = 9 := by decide +kernel

theorem test_end_withdraws :
    answers (after (.endReq h3 0x2A []) (held part)) =
      [.verdict h3 .withdrawn .end_ false 500, .mgmtRsp h3 0x13 0x2A .ok []] := by decide +kernel

theorem test_ticks_before_power_on_completes_leave_the_hold :
    (after .secondUpdate (after .powerOnReset part)).gov.powerOnHold = true := by decide +kernel

theorem test_window_closes :
    (after .minuteUpdate { part with time := { part.time with
      windows := part.time.windows.set 4 { part.time.windows[4] with closePattern := { minute := 0x01, hour := 0xFF, month := 0xFF, kind := 0, value := 0xFF } } } }).gov.flags =
      0x080 := by decide +kernel

/-! ### Requests -/

theorem test_read_zone_example :
    answers (after (.readZone { h3 with sequence := 0x11 } 0x2A [5]) part) =
      [.mgmtRsp { h3 with sequence := 0x11 } 0x23 0x2A .ok (5 :: 0 :: List.replicate 19 0)] := by decide

theorem test_read_floor_zone :
    answered (.readZone h3 0 [0x40]) part .ok
      [0x40, 0x01, 0x80, 0, 0, 0x80, 0, 0, 0x7F, 0xFF, 0xFF, 0x7F, 0xFF, 0xFF, 3, 0, 0, 0, 0, 0, 0xFF] = true := by decide +kernel

theorem test_read_zone_two_operands : answered (.readZone h3 0x2A [5, 0]) part .badValue [] = true := by decide

theorem test_read_status : answered (.readStatus h3 0 []) (held part) .ok [1, 0, 0, 0, 1, 0] = true := by decide +kernel

theorem test_read_cause_clears : (after (.readCause h3 0 []) part).gov.cause = 0 := by decide

theorem test_enroll :
    answered (.enroll h3 0 [5, 0, 0x13, 0x88, 0, 0x13, 0x88, 9, 40]) part .ok [] = true := by decide +kernel

theorem test_write_zone_in_use :
    answered (.writeZone h3 0 (2 :: List.replicate 20 0)) (held part) .inUse [] = true := by decide +kernel

theorem test_locked_write : answered (.writeSource h3 0 [9, 9, 9, 9]) (locked part) .locked [] = true := by decide

theorem test_line_release_keeps_power_on_hold :
    (after .lineResetRelease (after .lineReset (after .powerOnReset part))).inReset = true := by decide +kernel

theorem test_tick_completes_power_on_under_line_reset :
    (after (.baseTick false) (after .lineReset (after .powerOnReset part))).wireD = [.go] := by decide +kernel

theorem test_reset_pauses : (after (.resetReq h3 0 []) part).wireU = [.pause] := by decide +kernel


/-! ### The obligations' hypotheses can be met -/

/-- The state after the front command of the queue. -/
def stepped (s : State) : State :=
  match step s with
  | .next t => t
  | _ => s

/-- The part with commands waiting. -/
def waiting : State := { part with pending := [.moveAbs h3 50000 10000 500 0xFF, .baseTick false] }

/-- The part in STANDBY. -/
def standby : State := inState .standby part

/-- Carriage 3 is HELD before zone 2, which has room and is marked recheck pending, with the end of a transmission waiting. -/
def marked : State :=
  { held (dqOf 1 { part with link := { part.link with txD := .frame } }) with
    occ := { (held part).occ with recheck := (held part).occ.recheck.set 2 true }
    pending := [.dTxComplete] }

/-- Carriage 3 is PARKED and owed a verdict that UQ has no place for, with the end of a transmission waiting. -/
def owing : State :=
  { uqOf 13 (setCtx 3 { parked (pt 5000 5000) 64 with verdictOwed := true }
      { part with link := { part.link with sendingU := true } }) with
    link := { (uqOf 13 part).link with sendingU := true }
    occ := { part.occ with backlog := [entry.report .expired .none] }
    pending := [.uTxComplete] }

/-- Carriage 3 is MOVING into zone 2 and its DRIVE_MOVE is being sent. -/
def driving : State :=
  { moving { record with sent := false }
      { part with link := { part.link with txD := .frame, dq := [.driveMove h3 (pt 50000 10000) 500] } } with
    occ := { part.occ with claims := part.occ.claims.set 2 1 }
    pending := [.dTxComplete] }

/-- The books of a part without holds agree where each context carries the fields of its state. -/
theorem books_of_noHolds {s : State} (ctx : ∀ c : Carriage, (s.ctx c).FieldsFit ∧ (s.ctx c).RecordFits)
    (free : ∀ c : Carriage, (s.ctx c).state ≠ .held) (pool : ∀ e : Fin 16, s.occ.pool[e] = none)
    (waits : ∀ z : ZoneIndex, s.occ.waits[z] = []) (counts : ∀ z : Zone, s.claimCount z = (s.claimants z).length) : s.BooksAgree where
  contexts := ctx
  lists z := by rw [waits z]; exact ⟨List.nodup_nil, fun e he => by cases he⟩
  entries e h hh := by rw [pool e] at hh; cases hh
  held c hc := absurd hc (free c)
  counts := counts

theorem fits_unenrolled : Context.unenrolled.FieldsFit ∧ Context.unenrolled.RecordFits := ⟨rfl, fun r hr => by cases hr⟩

theorem books_waiting : waiting.BooksAgree := by
  have ctx : ∀ c : Carriage, (waiting.ctx c = .unenrolled ∨ waiting.ctx c = parked (pt 5000 5000) 64) := by decide +kernel
  refine books_of_noHolds (fun c => ?_) (by decide +kernel) (by decide +kernel) (by decide +kernel) (by decide +kernel)
  rcases ctx c with h | h <;> rw [h]
  · exact fits_unenrolled
  · exact ⟨⟨rfl, rfl⟩, fun r hr => by cases hr⟩

theorem ctx_owing (c : Carriage) :
    owing.ctx c = .unenrolled ∨ owing.ctx c = { parked (pt 5000 5000) 64 with verdictOwed := true } := by
  revert c; decide +kernel

theorem books_owing : owing.BooksAgree := by
  refine books_of_noHolds (fun c => ?_) (by decide +kernel) (by decide +kernel) (by decide +kernel) (by decide +kernel)
  rcases ctx_owing c with h | h <;> rw [h]
  · exact fits_unenrolled
  · exact ⟨⟨rfl, rfl⟩, fun r hr => by cases hr⟩

theorem ctx_driving (c : Carriage) : driving.ctx c = .unenrolled ∨ c = 3 ∧ driving.ctx c =
    { parked (pt 5000 5000) 64 with state := .moving, inFlight := some { record with sent := false } } := by
  revert c; decide +kernel

theorem books_driving : driving.BooksAgree := by
  refine books_of_noHolds (fun c => ?_) (by decide +kernel) (by decide +kernel) (by decide +kernel) (by decide +kernel)
  rcases ctx_driving c with h | ⟨_, h⟩ <;> rw [h]
  · exact fits_unenrolled
  · exact ⟨⟨rfl, rfl⟩, fun r hr => by cases hr; exact ⟨rfl, rfl⟩⟩

theorem ctx_marked (c : Carriage) : marked.ctx c = .unenrolled ∨ c = 3 ∧ marked.ctx c =
    { parked (pt 5000 5000) 64 with state := .held, holdRef := some 0 } := by
  revert c; decide +kernel

theorem pool_marked (e : Fin 16) : marked.occ.pool[e] = none ∨ e = 0 ∧ marked.occ.pool[e] = some entry := by
  revert e; decide +kernel

theorem waits_marked (z : ZoneIndex) : marked.occ.waits[z] = [] ∨ z = 2 ∧ marked.occ.waits[z] = [0] := by
  revert z; decide +kernel

theorem books_marked : marked.BooksAgree where
  contexts c := by
    rcases ctx_marked c with h | ⟨_, h⟩ <;> rw [h]
    · exact fits_unenrolled
    · exact ⟨⟨rfl, rfl⟩, fun r hr => by cases hr⟩
  lists z := by
    rcases waits_marked z with h | ⟨hz, h⟩ <;> rw [h]
    · exact ⟨List.nodup_nil, fun e he => by cases he⟩
    · subst hz
      refine ⟨by decide, fun e he => ⟨entry, ?_, rfl⟩⟩
      rw [List.mem_singleton.1 he]
      rfl
  entries e h hh := by
    rcases pool_marked e with k | ⟨he, k⟩ <;> rw [k] at hh <;> cases hh
    subst he
    decide +kernel
  held c hc := by
    rcases ctx_marked c with h | ⟨hc', h⟩
    · rw [h] at hc; cases hc
    · rw [h]; exact ⟨0, rfl, entry, rfl, hc'.symm⟩
  counts := by decide +kernel

theorem witness_StepRunsFrontCommand :
    waiting.pending = .moveAbs h3 50000 10000 500 0xFF :: [.baseTick false] := rfl

theorem witness_CommandsLeaveQueueAndRecord : exec .uTxStart (uqOf 1 part) = .next (after .uTxStart (uqOf 1 part)) := rfl

theorem witness_HardResets :
    (after .powerOnReset part).gov.powerOnHold = true ∧ (after .lineReset part).gov.lineHold = true ∧ part.gov.lineHold = false := by
  decide +kernel

theorem witness_HardResets_ports :
    (after .powerOnReset part).inReset = true ∧ (after .lineReset part).inReset = true ∧
      kindAccepted .u (InFrame.stopCarriage h3).kind = true ∧ kindAccepted .d (InFrame.contact h3 (pt 0 0)).kind = true := by
  decide +kernel

/-- The answer to a RESET is being sent. -/
def resetting : State :=
  softPending { part with link := { part.link with
    sendingU := true, uq := [{ frame := .mgmtRsp h3 0x51 0 .ok [], answersReset := true }] } }

theorem witness_CauseAndSoftReset :
    part.TakesU ∧ part.Manages h3 ∧
      resetting.link.sendingU = true ∧ resetting.link.uq = { frame := .mgmtRsp h3 0x51 0 .ok [], answersReset := true } :: [] ∧
      resetting.gov.softPending = true := ⟨part_taken.1, part_taken.2.2, by decide⟩

/-- A part that RSTn and a power-on reset hold, with a tick waiting. -/
def heldPart : State := { after .lineReset (after .powerOnReset part) with pending := [.baseTick false] }

theorem witness_StepKeepsHeldPart :
    heldPart.HeldInReset ∧ heldPart.inReset = true ∧ step heldPart = .next (stepped heldPart) := by
  refine ⟨?_, by decide +kernel, rfl⟩
  unfold State.HeldInReset
  decide +kernel

/-- Both transmitters are STOPPED while they send the heads of their queues. -/
def stopped : State :=
  { part with link := { part.link with
    stoppedU := true, stoppedD := true, sendingU := true, txD := .frame
    uq := [{ frame := .transit h3 [], answersReset := false }], dq := [.transit h3 []] } }

theorem witness_FlowControl :
    part.inReset = false ∧ stopped.link.stoppedU = true ∧ stopped.link.stoppedD = true ∧ stopped.link.sendingU = true ∧
      stopped.link.uq = { frame := .transit h3 [], answersReset := false } :: [] ∧ stopped.link.txD = .frame ∧
      stopped.link.dq = .transit h3 [] :: [] := by decide

theorem witness_FramesBegunAndDiscarded :
    part.inReset = false ∧ part.gov.softPending = false ∧ (softPending part).gov.softPending = true ∧
      (part.receiver .u).receiving = false ∧ ((after (.startSymbol .u []) part).receiver .u).receiving = true ∧
      ((after (.startSymbol .u []) (softPending part)).receiver .u).receiving = true ∧
      checkFrame .u [0, 0, 0, 0, 0, 0] false = none ∧
      checkFrame .u (InFrame.stopCarriage h3).bytes false = some (.stopCarriage h3) ∧ (uqOf 16 part).roomFor .u = false ∧
      (dqOf 16 part).roomFor .u = false ∧ (uqOf 16 part).roomFor .d = false := by decide +kernel

theorem witness_TypedFramesAreTheirBytes :
    kindAccepted .u (InFrame.stopCarriage h3).kind = true ∧ (InFrame.stopCarriage h3).fits = true ∧
      (part.receiver .u).collect (InFrame.stopCarriage h3).bytes =
        { receiving := true, buffer := (InFrame.stopCarriage h3).bytes, overlong := false } := by decide +kernel

theorem witness_FrameFormatReadsBack :
    kindAccepted .u (InFrame.transit h3 (List.replicate 40 0)).kind = true ∧
      (InFrame.transit h3 (List.replicate 40 0)).fits = true := by decide

theorem witness_ReceivedFrameKeepsItsBytes :
    checkFrame .d (InFrame.contact h3 (pt 1 2)).bytes false = some (.contact h3 (pt 1 2)) := by decide +kernel

theorem witness_steps : step waiting = .next (stepped waiting) := rfl

theorem witness_StepKeepsPauses : waiting.PausesAgree := by unfold State.PausesAgree; decide

theorem witness_StepKeepsQueues : (uqOf 16 part).QueuesBounded ∧ waiting.QueuesBounded ∧ stopped.TransmittersLawful ∧
    waiting.TransmittersLawful := by
  unfold State.QueuesBounded State.TransmittersLawful; decide

theorem witness_StepKeepsSoftReset : resetting.SoftPendingLawful ∧ waiting.SoftPendingLawful := by
  unfold State.SoftPendingLawful; decide

theorem witness_Transmission :
    (uqOf 1 part).link.sendingU = false ∧ (uqOf 1 part).link.stoppedU = false ∧ (uqOf 1 part).link.uq ≠ [] ∧
      (part.link.uq = []) ∧ part.link.txD = .idle ∧ part.link.stoppedD = false ∧
      ({ part.link with haltSlot := true }).haltSlot = true ∧ part.link.haltSlot = false ∧ (dqOf 1 part).link.dq ≠ [] ∧
      part.link.dq = [] ∧ stopped.link.txD ≠ .idle := by decide

/-- The frames that carriage 3's move and source 0's answer leave are being sent. -/
def sending : State :=
  moving { record with sent := false }
    { part with link := { part.link with
      sendingU := true, txD := .frame
      uq := [{ frame := .transit h3 [], answersReset := false }], dq := [.driveMove h3 (pt 50000 10000) 500] } }

theorem witness_Transmission_completes :
    sending.link.sendingU = true ∧ sending.link.uq = { frame := .transit h3 [], answersReset := false } :: [] ∧
      sending.gov.softPending = false ∧ sending.link.txD = .frame ∧
      sending.link.dq = .driveMove h3 (pt 50000 10000) 500 :: [] ∧
      (sending.ctx h3.carriage).state = .moving ∧ (sending.ctx h3.carriage).inFlight = some { record with sent := false } ∧
      record.source = h3.source ∧ record.sequence = h3.sequence ∧
      (stopped.link.dq = .transit h3 [] :: []) ∧ ({ part.link with txD := .haltAll }).txD = .haltAll := by
  decide +kernel

theorem witness_StepKeepsDriveMoves :
    driving.DriveMovesLawful ∧ driving.BooksAgree ∧ driving.link.dq ≠ [] ∧ step driving = .next (stepped driving) := by
  refine ⟨⟨?_, by decide +kernel, fun c hc r hr _ => ?_, by decide +kernel⟩, books_driving, by decide, rfl⟩
  · intro f hf
    cases List.mem_singleton.1 hf
    exact ⟨{ record with sent := false }, by decide +kernel, rfl, rfl, rfl⟩
  · rcases ctx_driving c with k | ⟨k, _⟩
    · rw [k] at hc; cases hc
    · subst k; decide +kernel

theorem witness_StepKeepsPointsOnFloor :
    marked.PointsOnFloor ∧ marked.StandbyLawful ∧ marked.BooksAgree ∧ step marked = .next (stepped marked) := by
  refine ⟨⟨by decide +kernel, fun c r hr => ?_, fun e h hh => ?_⟩, (fun h => by cases h), books_marked, rfl⟩
  · rcases ctx_marked c with k | ⟨_, k⟩ <;> rw [k] at hr <;> cases hr
  · rcases pool_marked e with k | ⟨_, k⟩ <;> rw [k] at hh <;> cases hh
    decide +kernel

theorem witness_TransitForwarded :
    (List.replicate 40 (0 : Byte)).length ≤ 40 ∧ part.TakesD ∧ part.TakesU ∧ part.sources[h3.source].enabled = true ∧
      part.sources[(hdr 1 3 0).source].enabled = false :=
  ⟨by decide, part_taken.2.1, part_taken.1, by decide, by decide⟩

theorem witness_SetFloorAndWriteSourceJudged :
    standby.TakesU ∧ standby.Manages h3 ∧ (locked part).TakesU ∧ (locked part).Manages h3 ∧
      (locked part).gov.lock = true ∧ part.gov.lock = false ∧ part.gov.state ≠ .standby ∧
      standby.gov.state = .standby ∧
      ¬((boxAt [0, 0, 1, 0, 0, 0, 0, 0, 0, 0, 0, 0] 0).x0.toInt ≤ (boxAt [0, 0, 1, 0, 0, 0, 0, 0, 0, 0, 0, 0] 0).x1.toInt) ∧
      (boxAt (List.replicate 12 0) 0).holds (standby.ctx 3).position = false ∧
      (boxAt [0, 0, 0, 0, 0, 0, 0, 0x13, 0x88, 0, 0x13, 0x88] 0).holds (standby.ctx 3).position = true ∧
      (∀ k : Carriage, (standby.ctx k).inFlight = none) := by
  unfold State.TakesU State.Receiving State.Manages; decide +kernel

theorem witness_SetupJudged :
    part.TakesU ∧ part.sources[(hdr 1 3 0).source].enabled = false ∧ part.sources[h3.source].enabled = true ∧
      (part.ctx (hdr 0 4 0).carriage).state = .unenrolled ∧ (part.ctx h3.carriage).state ≠ .unenrolled ∧
      ¬((17 : Byte).toNat ≤ 16) ∧ (16 : Byte).toNat ≤ 16 ∧ 1 ≤ (1 : Byte).toNat ∧ (3 : Byte).toNat ≤ 3 ∧ (127 : Byte).toNat ≤ 127 :=
  ⟨part_taken.1, by decide⟩

theorem witness_LookupIsLowestPlace :
    ({ part with gov := standby.gov } : State).table.descriptors = part.table.descriptors ∧ part.lookup (pt 25000 25000) = 0 ∧
      part.lookup (pt 5000 5000) = 64 := by decide

/-- A WRITE_ZONE of an open place 63 at the floor's far corner, with every operand at its bound. -/
def zone63 : List Byte := [63, 1, 0x01, 0x38, 0x80, 0, 0xC3, 0x50, 0x01, 0x38, 0x80, 0, 0xC3, 0x50, 3, 15, 0, 0, 1, 0xFF, 15]

theorem witness_WriteZoneJudged :
    zone63.length = 21 ∧ part.TakesU ∧ part.Manages h3 ∧ (locked part).gov.lock = true ∧ part.gov.lock = false ∧
      63 < (byteAt (64 :: List.replicate 20 0) 0).toNat ∧ (byteAt (63 :: 4 :: List.replicate 19 0) 0).toNat ≤ 63 ∧
      3 < (byteAt (63 :: 4 :: List.replicate 19 0) 1).toNat ∧
      (byteAt zone63 0).toNat = (63 : ZoneIndex).val ∧ descriptorOf zone63 ≠ none ∧
      reqWriteZone zone63 part ≠ .refuse .inUse part ∧ 0 < (full part).claimCount (2 : ZoneIndex).castSucc ∧
      lookupIn (part.table.descriptors.set 63 (.place { floorPlace with box := box 5000 5000 5000 5000 })) (part.ctx 3).position ≠
        (part.ctx 3).zone := by
  refine ⟨by decide, part_taken.1, part_taken.2.2, by decide, by decide, by decide, by decide, by decide, by decide, by decide, ?_,
    by decide +kernel, by decide +kernel⟩
  intro h
  have : (reqWriteZone zone63 part).status = .inUse := by rw [h]; rfl
  exact absurd this (by decide +kernel)

theorem lookups_part : part.LookupsAgree := by
  have one : ∀ c : Carriage, (part.ctx c).enrolled = true → part.lookup (part.ctx c).position = (part.ctx c).zone := by
    decide +kernel
  have none : ∀ c : Carriage, (part.ctx c).inFlight = none := by decide +kernel
  have empty : ∀ e : Fin 16, part.occ.pool[e] = Option.none := by decide +kernel
  refine ⟨one, fun c r hr => ?_, fun e h hh => ?_⟩
  · rw [none c] at hr; cases hr
  · rw [empty e] at hh; cases hh

theorem lookups_marked : marked.LookupsAgree := by
  refine ⟨by decide +kernel, fun c r hr => ?_, fun e h hh => ?_⟩
  · rcases ctx_marked c with k | ⟨_, k⟩ <;> rw [k] at hr <;> cases hr
  · rcases pool_marked e with k | ⟨_, k⟩ <;> rw [k] at hh <;> cases hh
    decide +kernel

theorem witness_StepKeepsLookups :
    marked.LookupsAgree ∧ marked.BooksAgree ∧ step marked = .next (stepped marked) := ⟨lookups_marked, books_marked, rfl⟩

theorem witness_StepKeepsLookups_write :
    part.LookupsAgree ∧ exec (.writeZone h3 0 zone63) part = .next (after (.writeZone h3 0 zone63) part) := ⟨lookups_part, rfl⟩

theorem witness_EnrollAndWithdrawJudged :
    part.TakesU ∧ part.Manages h3 ∧ 31 < (byteAt [32] 0).toNat ∧ (byteAt [31] 0).toNat = (31 : Carriage).val ∧
      (part.ctx 3).state ≠ .unenrolled ∧ (part.ctx 31).state = .unenrolled ∧ part.table.floorValid = true ∧
      part.table.onFloor (pt 80001 0) = false ∧ part.table.onFloor (pt 80000 50000) = true ∧
      (full part).lookup (pt 50000 10000) = 2 ∧ ¬((full part).claimCount 2 < ((full part).placeAt 2).capacity) ∧
      (part.placeAt 64).capacity = 0 ∧ part.waitList 64 = [] ∧ (part.ctx 31).state ≠ .parked ∧ (part.ctx 3).state = .parked ∧
      (part.ctx 3).verdictOwed = false :=
  ⟨part_taken.1, part_taken.2.2, by decide +kernel⟩

theorem witness_ReleaseJudged :
    (faulted record part).TakesU ∧ (faulted record part).Manages h3 ∧ 31 < (byteAt [32] 0).toNat ∧
      (byteAt [3] 0).toNat = (3 : Carriage).val ∧ (part.ctx 3).state ≠ .faulted ∧ ((faulted record part).ctx 3).state = .faulted ∧
      part.table.onFloor (pt 80001 0) = false ∧ part.table.onFloor (pt 5000 5000) = true ∧
      (faulted record part).lookup (pt 5000 5000) = ((faulted record part).ctx 3).zone ∧
      (faulted record part).lookup (pt 25000 25000) = 0 ∧ ¬((full part).claimCount 2 < ((full part).placeAt 2).capacity) ∧
      ((faulted record part).ctx 3).inFlight = some record ∧ record.entry = true ∧ record.targetZone < (64 : Zone) ∧
      ((0 : Zone) ≤ record.targetZone) ∧ ({ record with entry := false }).entry = false := by
  unfold State.TakesU State.Receiving State.Manages; decide +kernel

theorem witness_DoneTaken :
    (moving record part).TakesD ∧ ((moving record part).ctx h3.carriage).state = .moving ∧
      ((moving record part).ctx h3.carriage).inFlight = some record ∧ record.source = h3.source ∧ record.sequence = h3.sequence ∧
      record.sent = true ∧ part.table.onFloor (pt 50000 10000) = true ∧ record.entry = true ∧
      (moving record part).lookup (pt 50000 10000) = record.targetZone ∧
      (moving record part).lookup (pt 5000 5000) = record.originZone ∧ record.originZone ≠ record.targetZone ∧
      ({ record with entry := false }).entry = false ∧ part.table.onFloor (pt 80001 0) = false ∧
      (moving record part).lookup (pt 25000 25000) = 0 ∧ (moving record part).gov.state = .governing ∧
      (moving record part).gov.haltEnables.getLsbD 3 = true ∧ standby.gov.state ≠ .governing := by
  unfold State.TakesD State.Receiving; decide +kernel

theorem witness_DoneTaken_unmatched :
    (faulted record part).TakesD ∧ ((faulted record part).ctx h3.carriage).state = .faulted ∧
      ((faulted record part).ctx h3.carriage).faultCause = some .timeout ∧
      ((faulted record part).ctx h3.carriage).inFlight = some record ∧ part.TakesD ∧ (part.ctx h3.carriage).state = .parked := by
  unfold State.TakesD State.Receiving; decide +kernel

theorem witness_StopCarriageAndContactTaken_contact :
    part.TakesD ∧ part.gov.state = .governing ∧ part.gov.haltEnables.getLsbD 1 = true ∧ standby.gov.state ≠ .governing :=
  ⟨part_taken.2.1, by decide⟩

theorem witness_LevelAndSpeedJudged :
    (part.placeAt 64).speedLimit = 0 ∧ (part.placeAt 0).speedLimit ≠ 0 ∧
      (part.placeAt 0).speedLimit.toNat < (part.placeAt 1).speedLimit.toNat ∧ (part.placeAt 0).policy = .clip ∧
      (part.placeAt 1).policy = .refuse ∧ (400 : Speed).toNat ≤ (part.placeAt 0).speedLimit.toNat ∧
      (part.placeAt 0).speedLimit.toNat < (401 : Speed).toNat ∧
      part.table.descriptors[(63 : ZoneIndex)] = .void ∧ part.table.descriptors[(2 : ZoneIndex)] = .place (part.placeAt 2) := by decide

/-- A MOVE_ABS of carriage 3 with its target. -/
theorem moves (s : State) (x y : Coord) (speed : Speed) (via : Byte) :
    MoveCommand s (.moveAbs h3 x y speed via) h3 speed via (translateAbs s.table (s.ctx h3.carriage) x y) := .inl ⟨_, _, rfl, rfl⟩

/-- A MOVE_REL of carriage 3 with its target. -/
theorem movesRel (s : State) (x y : Coord) (speed : Speed) (via : Byte) :
    MoveCommand s (.moveRel h3 x y speed via) h3 speed via (translateRel s.table (s.ctx h3.carriage) x y) := .inr ⟨_, _, rfl, rfl⟩

theorem judges_part : part.Judges h3 500 0xFF ∧ part.Judges h3 500 0x3F ∧ (full part).Judges h3 500 0xFF := by
  unfold State.Judges State.TakesU State.Receiving; decide +kernel

theorem witness_MovesRefusedInOrder :
    MoveCommand part (.moveAbs h3 80001 0 500 0xFF) h3 500 0xFF none ∧ part.Judges h3 500 0xFF ∧
      part.gov.haltEnables.getLsbD 0 = true ∧ ({ part.gov with haltEnables := 0 }).haltEnables.getLsbD 0 = false ∧
      part.sources[(hdr 1 3 0).source].enabled = false ∧ standby.gov.state = .standby ∧ (inState .halted part).gov.state = .halted ∧
      (part.ctx 4).state = .unenrolled ∧ ((moving record part).ctx 3).state = .moving ∧ ((held part).ctx 3).state = .held ∧
      ((faulted record part).ctx 3).state = .faulted ∧ (part.ctx 3).state = .parked ∧ (part.ctx 3).verdictOwed = false ∧
      0x40 ≤ (0x40 : Byte).toNat ∧ (0xFE : Byte).toNat ≤ 0xFE := by
  refine ⟨?_, judges_part.1, by decide +kernel⟩
  have e : translateAbs part.table (part.ctx h3.carriage) 80001 0 = none := by decide +kernel
  rw [← e]; exact moves ..

theorem witness_StayMove :
    part.Judges h3 500 0xFF ∧ MoveCommand part (.moveRel h3 100 0 500 0xFF) h3 500 0xFF (some (pt 5100 5000)) ∧
      part.lookup (pt 5100 5000) = (part.ctx h3.carriage).zone ∧ (part.placeAt (part.ctx h3.carriage).zone).speedLimit = 0 ∧
      (part.placeAt 0).speedLimit ≠ 0 ∧ (part.placeAt 0).speedLimit.toNat < (401 : Speed).toNat ∧
      (part.placeAt 0).policy = .clip ∧ (part.placeAt 1).policy = .refuse := by
  refine ⟨judges_part.1, ?_, by decide +kernel⟩
  have e : translateRel part.table (part.ctx h3.carriage) 100 0 = some (pt 5100 5000) := by decide +kernel
  rw [← e]; exact movesRel ..

theorem witness_EntryMove :
    (full part).Judges h3 500 0xFF ∧ MoveCommand (full part) (.moveAbs h3 50000 10000 500 0xFF) h3 500 0xFF (some (pt 50000 10000)) ∧
      (full part).lookup (pt 50000 10000) ≠ ((full part).ctx h3.carriage).zone ∧ (part.placeAt 2).window = some 4 ∧
      part.time.windows[(4 : Fin 16)].inUse = true ∧ part.time.windows[(4 : Fin 16)].isOpen = true ∧
      State.reset.time.windows[(4 : Fin 16)].inUse = false ∧ (part.placeAt 0).window = none ∧
      (judgeClearance part (part.ctx 3) 0 0xFF 2).toOption = some { pops := 0, push := none } ∧
      (judgeClearance part (part.ctx 3) 0 0xFF 1).toOption = none ∧
      (judgeSpeed (part.placeAt 64) (part.placeAt 2) 500).toOption = some (500, false) ∧
      (judgeSpeed (part.placeAt 64) (part.placeAt 0) 401).toOption = some (400, true) ∧
      (judgeSpeed (part.placeAt 64) (part.placeAt 1) 801).toOption = none ∧
      part.claimCount 2 < (part.placeAt 2).capacity ∧ part.waitList 2 = [] ∧
      ¬((full part).claimCount 2 < ((full part).placeAt 2).capacity) ∧ (2 : Zone) = (2 : ZoneIndex).castSucc ∧
      (part.placeAt 1).holdLimit = 0 ∧ (part.placeAt 2).holdLimit ≠ 0 ∧ part.occ.pool[(0 : Fin 16)] = none ∧
      (∀ e : Fin 16, ((Vector.replicate 16 (some entry))[e]).isSome) := by
  refine ⟨judges_part.2.2, ?_, by decide +kernel⟩
  have e : translateAbs (full part).table ((full part).ctx h3.carriage) 50000 10000 = some (pt 50000 10000) := by decide +kernel
  rw [← e]; exact moves ..

theorem witness_ClearanceJudged :
    (part.placeAt 1).guardLevel < (3 : Level) ∧ (2 : Level) ≤ (part.placeAt 1).guardLevel ∧ 0x3F < (0x40 : Byte).toNat ∧
      (0x3F : Byte).toNat = (63 : ZoneIndex).val ∧ (∀ f t l, part.table.descriptors[(63 : ZoneIndex)] ≠ .portal f t l) ∧
      part.table.descriptors[(10 : ZoneIndex)] = .portal 64 1 2 ∧ (2 : Level) < 3 ∧ (64 : Zone) = (part.ctx 3).zone ∧
      (1 : ZoneIndex).castSucc = (1 : Zone) ∧ (part.placeAt 1).guardLevel < (unwind 2 3 []).2 ∧
      (4 ≤ ((List.replicate 4 ({ saved := 3, portal := 0 } : StackRecord)).length - 0)) ∧
      (unwind 3 2 [{ saved := 3, portal := 10 }]).2 ≤ (3 : Level) ∧ (part.placeAt 1).guarded = true ∧ (part.placeAt 2).guarded = false := by
  refine ⟨by decide, by decide, by decide, by decide, ?_, by decide⟩
  intro f t l h
  have v : part.table.descriptors[(63 : ZoneIndex)] = .void := by decide
  rw [v] at h; cases h

theorem witness_PlansKeepStackLaw :
    StackLawful (part.ctx 3).clearance (part.ctx 3).stack ∧
      (judgeClearance part (part.ctx 3) 1 10 1).toOption = some { pops := 0, push := some { saved := 3, portal := 10 } } :=
  ⟨by show StackLawful 3 []; rfl, by decide +kernel⟩

theorem witness_StepKeepsStacks :
    marked.StacksLawful ∧ marked.BooksAgree ∧ step marked = .next (stepped marked) := by
  refine ⟨⟨fun c => ?_, fun c r hr => ?_, fun e h hh => ?_⟩, books_marked, rfl⟩
  · rcases ctx_marked c with k | ⟨_, k⟩ <;> rw [k] <;> exact rfl
  · rcases ctx_marked c with k | ⟨_, k⟩ <;> rw [k] at hr <;> cases hr
  · rcases pool_marked e with k | ⟨_, k⟩ <;> rw [k] at hh <;> cases hh
    exact rfl

theorem witness_StopCarriageAndContactTaken :
    part.TakesU ∧ part.sources[(hdr 1 3 0).source].enabled = false ∧ part.sources[h3.source].enabled = true ∧
      (part.ctx 4).state = .unenrolled ∧ (part.ctx 3).state = .parked ∧ ((moving record part).ctx 3).state = .moving ∧
      ((faulted record part).ctx 3).state = .faulted ∧ ((held part).ctx 3).state = .held ∧ ((held part).ctx 3).holdRef = some 0 :=
  ⟨part_taken.1, by decide +kernel⟩

theorem witness_StepKeepsCapacity : part.CapacityKept ∧ (full part).CapacityKept := by
  unfold State.CapacityKept; decide +kernel

theorem witness_StepKeepsBooks : waiting.BooksAgree ∧ marked.BooksAgree := ⟨books_waiting, books_marked⟩

theorem witness_StepKeepsBacklogFed : waiting.BacklogFed ∧ owing.BacklogFed := ⟨.inl rfl, .inr (by decide)⟩

theorem witness_StepKeepsRechecks :
    marked.RechecksLawful ∧ marked.BooksAgree ∧ marked.occ.recheck[(2 : ZoneIndex)] = true ∧ step marked = .next (stepped marked) :=
  ⟨by unfold State.RechecksLawful; decide +kernel, books_marked, by decide, rfl⟩

theorem witness_StepKeepsBacklogAndContexts :
    owing.BacklogLawful ∧ owing.BacklogFed ∧ owing.ContextsLawful ∧ owing.BooksAgree ∧ owing.occ.backlog ≠ [] ∧
      step owing = .next (stepped owing) := by
  refine ⟨?_, .inr (by decide), ?_, books_owing, by decide, rfl⟩
  · unfold State.BacklogLawful; decide +kernel
  · intro c
    rcases ctx_owing c with h | h <;> rw [h]
    · exact ⟨rfl, (fun r hr => by cases hr), ⟨by decide, by decide⟩, by decide, fun r hr => by cases hr⟩
    · exact ⟨⟨rfl, rfl, rfl, rfl⟩, (fun r hr => by cases hr), ⟨by decide, by decide⟩, by decide, fun r hr => by cases hr⟩

theorem witness_StepKeepsHoldWarn : marked.HoldWarnLawful ∧ marked.occ.inUse = 1 := by
  unfold State.HoldWarnLawful; decide +kernel

theorem witness_StepKeepsStandby :
    State.StandbyLawful { waiting with gov := standby.gov } ∧ State.BooksAgree { waiting with gov := standby.gov } :=
  ⟨fun _ => by decide +kernel, { books_waiting with }⟩

theorem witness_HoldEnds :
    (held part).occ.pool[(0 : Fin 16)] = some entry ∧ 3 < 16 - (held part).link.uq.length ∧ (held part).occ.backlog = [] ∧
      16 - (uqOf 13 (held part)).link.uq.length ≤ 3 ∧ entry.remaining = 1 ∧ part.occ.pool[(15 : Fin 16)] = none ∧
      (Occupancy.inUse { part.occ with pool := (Vector.replicate 16 none).set 0 (some entry) }) = 1 ∧
      (Occupancy.inUse { part.occ with pool := Vector.ofFn fun e : Fin 16 => if e.val < 12 then some entry else none }) = 12 ∧
      (Occupancy.inUse { part.occ with pool := Vector.ofFn fun e : Fin 16 => if e.val < 8 then some entry else none }) = 8 := by
  decide +kernel

theorem witness_HoldEnds_feed :
    owing.occ.backlog = (entry.report .expired .none) :: [] ∧ 16 - owing.link.uq.length ≤ 3 ∧
      3 < 16 - (uqOf 12 owing).link.uq.length := by decide +kernel

theorem witness_OfferAfterRelease :
    part.occ.waits[(2 : ZoneIndex)] = [] ∧ (held part).occ.waits[(2 : ZoneIndex)] = [0] ∧
      (full (held part)).hasRoom 2 = false ∧ (held part).hasRoom 2 = true ∧ (inState .halted (held part)).gov.state ≠ .governing ∧
      (held part).gov.state = .governing ∧ (held part).occ.pool[(0 : Fin 16)] = some entry ∧ entry.zone = 2 ∧
      (held part).occ.backlog = [] ∧ 16 - (dqOf 13 (held part)).link.dq.length ≤ 3 ∧
      3 < 16 - (dqOf 12 (held part)).link.dq.length ∧ 16 - (uqOf 13 (held part)).link.uq.length ≤ 3 ∧
      3 < 16 - (uqOf 12 (held part)).link.uq.length := by decide +kernel

theorem witness_BaseTick :
    part.gov.powerOnHold = false ∧ part.gov.stopn = false ∧ part.time.subSecond < 999 ∧ (part.time.divider + 1) % 100 ≠ 0 ∧
      (∀ n : Fin 4, part.time.timers[n].enabled = false) ∧ true ≠ part.gov.stopn ∧ part.gov.stopnCount < 3 ∧
      3 ≤ ({ part.gov with stopnCount := 3 }).stopnCount := by decide

theorem witness_BaseTick_timers :
    (timing .ms10 1 part).gov.powerOnHold = false ∧ (timing .ms10 1 part).time.timers[(2 : Fin 4)].enabled = true ∧
      (timing .ms10 1 part).time.timers[(2 : Fin 4)].counter = 1 ∧
      1 < (timing .min1 2 part).time.timers[(2 : Fin 4)].counter.toNat ∧ (9 + 1) % 100 % 10 = 0 ∧
      part.time.timers[(2 : Fin 4)].enabled = false := by decide

theorem witness_CoarserTicks_expiries :
    (((moving { record with deadline := some 1 } part).ctx 3).state = .moving ∧
      ∃ r ∈ ((moving { record with deadline := some 1 } part).ctx 3).inFlight, r.sent = true ∧ r.deadline = some 1) ∧
      (∀ c : Carriage, c ≠ 3 → ((moving { record with deadline := some 1 } part).ctx c).state ≠ .moving) ∧
      (∀ e : Fin 16, part.occ.pool[e] = none) ∧ (∀ n : Fin 4, part.time.timers[n].enabled = false) ∧
      (∃ h ∈ (held part).occ.pool[(0 : Fin 16)], h.remaining = 1) ∧ (∀ c : Carriage, ((held part).ctx c).state ≠ .moving) ∧
      (timing .ms10 1 part).time.timers[(2 : Fin 4)].source = .ms10 ∧
      (∀ n : Fin 4, n ≠ 2 → (timing .ms10 1 part).time.timers[n].enabled = false) := by decide +kernel

theorem witness_CoarserTicks_seconds :
    ({ part.time.calendar with seconds := 0x59 }).seconds = 0x59 ∧ part.time.calendar.seconds ≠ 0x59 ∧
      (timing .s1 1 part).time.timers[(2 : Fin 4)].source = .s1 ∧ (timing .s1 1 part).time.timers[(2 : Fin 4)].counter = 1 ∧
      (∀ n : Fin 4, n ≠ 2 → (timing .s1 1 part).time.timers[n].enabled = false) ∧
      (timing .min1 1 part).time.timers[(2 : Fin 4)].source = .min1 := by decide

theorem witness_CoarserTicks :
    ((moving record part).ctx 3).inFlight = some record ∧ record.deadline ≠ some 1 ∧ part.occ.pool[(0 : Fin 16)] = none ∧
      part.time.timeInvalid = false ∧ State.reset.time.timeInvalid = true ∧ part.time.windows[(4 : Fin 16)].inUse = true ∧
      part.time.windows[(5 : Fin 16)].inUse = false ∧ (∀ n : Fin 4, part.time.timers[n].enabled = false) := by decide

theorem witness_CalendarAdvances :
    Calendar.valid { seconds := 0x59, minutes := 0x59, hours := 0x23, weekday := 0x40, day := 0x29, month := 0x02, year := 0x24 } =
        true ∧ part.time.calendar.valid = true ∧
      Calendar.valid { seconds := 0x59, minutes := 0x59, hours := 0x23, weekday := 0x40, day := 0x31, month := 0x12, year := 0x99 } =
        true := by decide

theorem witness_StepKeepsClock :
    waiting.CalendarValid ∧ waiting.CountsLawful ∧ waiting.DebounceLawful ∧ waiting.WindowsLawful := by
  unfold State.CalendarValid State.CountsLawful State.DebounceLawful State.WindowsLawful; decide +kernel

/-- The part with timer 0 about to expire. -/
def expiring (a : TimerAction) : State :=
  { part with time := { part.time with
    timers := part.time.timers.set 0 { enabled := true, source := .ms1, preset := 5, action := a, counter := 1 } } }

theorem witness_CycleTimersAndSetTime_expiry :
    (expiring .event).time.timers[(0 : Fin 4)].enabled = true ∧ (expiring .event).time.timers[(0 : Fin 4)].counter = 1 ∧
      (expiring .event).time.timers[(0 : Fin 4)].action = .event ∧ (expiring .heartbeat).time.timers[(0 : Fin 4)].action = .heartbeat ∧
      3 < 16 - (dqOf 12 (expiring .heartbeat)).link.dq.length ∧ 16 - (dqOf 13 (expiring .heartbeat)).link.dq.length ≤ 3 ∧
      part.time.timers[(0 : Fin 4)].enabled = false := by decide

theorem witness_CycleTimersAndSetTime :
    part.TakesU ∧ part.Manages h3 ∧
      (calendarOf [0x59, 0x59, 0x23, 0x40, 0x29, 0x02, 0x24]).valid = true ∧ bcdValue 0x29 = monthLength (bcdValue 0x02) (bcdValue 0x24) ∧
      ¬(bcdValue (byteAt [0x60, 0, 0, 1, 1, 1, 0] 0) ≤ 59) ∧ (locked part).gov.lock = true ∧ part.gov.lock = false ∧
      3 < (byteAt [4, 0, 0, 0, 1, 0] 0).toNat ∧ (byteAt [3, 1, 3, 0, 0, 1] 0).toNat ≤ 3 ∧ wordAt [3, 1, 3, 0, 0, 1] 3 = 0 ∧
      (byteAt [3, 1, 3, 0, 1, 1] 0).toNat = (3 : Fin 4).val ∧ (byteAt [3, 1, 3, 0, 1, 1] 1).toNat ≤ 1 ∧
      (byteAt [3, 1, 3, 0, 1, 1] 2).toNat ≤ 3 ∧ wordAt [3, 1, 3, 0, 1, 1] 3 ≠ 0 ∧ (byteAt [3, 1, 3, 0, 1, 1] 5).toNat ≤ 1 :=
  ⟨part_taken.1, part_taken.2.2, by decide⟩

theorem witness_WriteWindowJudged :
    part.TakesU ∧ part.Manages h3 ∧ (locked part).gov.lock = true ∧ part.gov.lock = false ∧ 15 < (16 : Byte).toNat ∧
      1 < (2 : Byte).toNat ∧ (15 : Byte).toNat = (15 : Fin 16).val ∧
      (patternAt [0, 1, 0x59, 0x23, 0x12, 0, 0x31, 0xFF, 0xFF, 0xFF, 1, 0x7F, 1] 2).valid = true ∧
      (patternAt [0, 1, 0x59, 0x23, 0x12, 0, 0x31, 0xFF, 0xFF, 0xFF, 1, 0x7F, 1] 7).valid = true ∧
      part.time.windows[(4 : Fin 16)].isOpen = true ∧ part.time.windows[(15 : Fin 16)].isOpen = false ∧
      part.time.timeInvalid = false ∧ State.reset.time.timeInvalid = true :=
  ⟨part_taken.1, part_taken.2.2, by decide⟩

theorem witness_HaltEntry :
    part.NothingToPurge ∧ part.link.dq = [] ∧
      (dqOf 1 { part with link := { part.link with txD := .frame } }).link.txD = .frame ∧
      [DFrame.driveMove h3 (pt 50000 10000) 500] ≠ [] ∧ ((moving record part).ctx h3.carriage).state = .moving ∧
      ((moving record part).ctx h3.carriage).inFlight = some record ∧ record.source = h3.source ∧ record.sequence = h3.sequence ∧
      record.entry = true ∧ ({ record with entry := false }).entry = false := by
  unfold State.NothingToPurge; decide +kernel

theorem witness_StopnAndTimeoutCauses :
    part.gov.stopn = false ∧ standby.gov.state = .standby ∧ part.gov.state = .governing ∧ (inState .halted part).gov.state = .halted ∧
      ({ part.gov with stopn := true }).stopn = true ∧ ((moving record part).ctx 3).state = .moving ∧
      ((moving record part).ctx 3).inFlight = some record ∧ record.sent = true ∧
      ({ record with deadline := some 1 }).deadline = some 1 ∧ record.deadline ≠ some 1 ∧
      ({ record with sent := false }).sent = false ∧ part.gov.haltEnables.getLsbD 2 = true ∧
      ({ part.gov with haltEnables := 0xB }).haltEnables.getLsbD 2 = false := by decide +kernel

theorem witness_FlagsAndAlerts :
    Flag.window.pulse = some 0 ∧ (Flag.cycle 3).pulse = some 4 ∧ Flag.stop.pulse = none ∧
      Governor.alertEnabled { part.gov with alertEnables := 0xFFF } (.cycle 3) = true ∧ part.gov.alertEnabled .window = false ∧
      ((part.gov.pulses.set 4 1)[(4 : Fin 5)] = 1) := by decide

theorem witness_StepKeepsAlertLaw :
    waiting.PulsesLawful ∧ Governor.alertLow { part.gov with flags := 1, alertEnables := 1 } = true ∧
      State.PulsesLawful { part with gov := { part.gov with flags := 1, alertEnables := 1 } } := by
  unfold State.PulsesLawful; decide +kernel

theorem witness_GovernorRequests :
    standby.TakesU ∧ standby.Manages h3 ∧ part.gov.state ≠ .standby ∧ standby.table.floorValid = true ∧ standby.gov.stopn = false ∧
      part.gov.state = .governing ∧ (inState .halted part).gov.state = .halted ∧
      (inState .halted part).gov.stopn = false ∧ (∀ c : Carriage, (part.ctx c).state ≠ .moving) ∧
      ((moving record part).ctx 3).state = .moving ∧ (∀ z : ZoneIndex, part.occ.waits[z] = []) := by
  unfold State.TakesU State.Receiving State.Manages; decide +kernel

theorem witness_GovernorRequests_held :
    (held part).TakesU ∧ (held part).Manages h3 ∧ (held part).gov.state ≠ .standby ∧
      (∀ c : Carriage, ((held part).ctx c).state ≠ .moving) ∧ (held part).occ.waits[(2 : ZoneIndex)] ≠ [] := by
  unfold State.TakesU State.Receiving State.Manages; decide +kernel

theorem witness_GovernorRequests_end : waiting.TakesU ∧ waiting.Manages h3 ∧ waiting.BooksAgree ∧ waiting.gov.state ≠ .standby ∧
    (∀ c : Carriage, (waiting.ctx c).state ≠ .moving) :=
  ⟨part_taken.1, part_taken.2.2, books_waiting, by decide +kernel⟩

theorem witness_FlagsAndAlerts_requests :
    part.TakesU ∧ part.Manages h3 ∧ (locked part).gov.lock = true ∧ part.gov.lock = false ∧ 16 ≤ (16 : Byte).toNat ∧
      ¬(16 ≤ (15 : Byte).toNat) :=
  ⟨part_taken.1, part_taken.2.2, by decide⟩

theorem witness_LockIsSet :
    part.TakesU ∧ part.Manages h3 ∧ exec (.lockReq h3 0 []) part = .next (after (.lockReq h3 0 []) part) ∧
      (after (.lockReq h3 0 []) part).TakesU ∧ (after (.lockReq h3 0 []) part).Manages h3 ∧
      (List.replicate 4 (0 : Byte)).length = Request.writeSource.operandLength := by
  refine ⟨part_taken.1, part_taken.2.2, rfl, ?_⟩
  unfold State.TakesU State.Receiving State.Manages; decide +kernel

theorem witness_LockHolds :
    (locked part).gov.lock = true ∧ exec .uTxStart (locked part) = .next (after .uTxStart (locked part)) ∧
      (locked part).TakesU ∧ (locked part).Manages h3 ∧ (List.replicate 12 (0 : Byte)).length = Request.setFloor.operandLength := by
  refine ⟨rfl, rfl, ?_⟩
  unfold State.TakesU State.Receiving State.Manages; decide +kernel

theorem witness_AgentChecks :
    part.TakesU ∧ ¬part.Manages (hdr 2 3 0) ∧ part.Manages h3 ∧ (List.replicate 38 (0 : Byte)).length ≤ 38 ∧
      (List.replicate 38 (0 : Byte)).length ≠ Request.readStatus.operandLength ∧ (∀ r ∈ Request.all, r.code ≠ 0xFF) := by
  refine ⟨part_taken.1, ?_, part_taken.2.2, by decide, by decide, by decide⟩
  unfold State.Manages; decide

theorem witness_SetFloorAndWriteSourceJudged_source :
    part.TakesU ∧ part.Manages h3 ∧ (locked part).gov.lock = true ∧ part.gov.lock = false ∧ 7 < (8 : Byte).toNat ∧
      1 < (2 : Byte).toNat ∧ 3 < (4 : Byte).toNat ∧ (7 : Byte).toNat = (7 : Source).val ∧ (3 : Byte).toNat = (3 : Level).val :=
  ⟨part_taken.1, part_taken.2.2, by decide⟩

theorem witness_TableReads :
    part.TakesU ∧ part.Manages h3 ∧ 7 < (8 : Byte).toNat ∧ (7 : Byte).toNat = (7 : Source).val ∧ 15 < (16 : Byte).toNat ∧
      (15 : Byte).toNat = (15 : Fin 16).val ∧ 3 < (4 : Byte).toNat ∧ (3 : Byte).toNat = (3 : Fin 4).val :=
  ⟨part_taken.1, part_taken.2.2, by decide⟩

theorem witness_StateReads :
    part.TakesU ∧ part.Manages h3 ∧ 64 < (65 : Byte).toNat ∧ (64 : Byte).toNat = (64 : Zone).val ∧
      part.descriptor 63 = .void ∧ part.descriptor 10 = .portal 64 1 2 ∧ part.descriptor 64 = .place floorPlace ∧
      31 < (32 : Byte).toNat ∧ (31 : Byte).toNat = (31 : Carriage).val ∧ 1 < (2 : Byte).toNat ∧ 127 < (128 : Byte).toNat ∧
      (127 : Byte).toNat ≤ 127 ∧ 63 < (64 : Byte).toNat ∧ (63 : Byte).toNat = (63 : ZoneIndex).val :=
  ⟨part_taken.1, part_taken.2.2, by decide⟩

end Sys2Proof.Tests
end

section
/-! The lookup of a point (R41): what the box test, the test of one descriptor and the search of the whole table each decide,
and from these the lookup as the lowest present place that holds the point. -/

namespace Sys2Proof.Machine

theorem Box.holds_iff (b : Box) (p : Point) :
    b.holds p = true ↔ b.x0.toInt ≤ p.x.toInt ∧ p.x.toInt ≤ b.x1.toInt ∧ b.y0.toInt ≤ p.y.toInt ∧ p.y.toInt ≤ b.y1.toInt := by
  simp [Box.holds, and_assoc]

/-- Only a present place contains a point: a void descriptor and a portal hold none (R41). -/
theorem Descriptor.contains_iff (d : Descriptor) (p : Point) :
    d.contains p = true ↔ ∃ pl, d = .place pl ∧ pl.box.holds p = true := by
  cases d with
  | void => simp [Descriptor.contains]
  | place pl => simp [Descriptor.contains]
  | portal f t l => simp [Descriptor.contains]

/-- The floor zone answers only when the search of the table fails: no index of the table is 64. -/
theorem lookupIn_eq_castSucc_iff_find? (ds : Vector Descriptor 64) (p : Point) (i : ZoneIndex) :
    lookupIn ds p = i.castSucc ↔ Fin.find? (fun j : ZoneIndex => ds[j].contains p) = some i := by
  rw [Fin.find?_eq_find?_finRange, lookupIn]
  split
  next k found => rw [found, Fin.castSucc_inj, Option.some_inj]
  next missed => rw [missed]; exact iff_of_false (Fin.castSucc_lt_last i).ne' nofun

theorem lookupIn_eq_castSucc_iff (ds : Vector Descriptor 64) (p : Point) (i : ZoneIndex) :
    lookupIn ds p = i.castSucc ↔ ds[i].contains p = true ∧ ∀ j : ZoneIndex, j < i → ds[j].contains p = false :=
  (lookupIn_eq_castSucc_iff_find? ds p i).trans Fin.find?_eq_some_iff

theorem lookupIn_eq_floor_iff (ds : Vector Descriptor 64) (p : Point) :
    lookupIn ds p = 64 ↔ ∀ i : ZoneIndex, ds[i].contains p = false := by
  rw [lookupIn, ← Fin.find?_eq_find?_finRange]
  split
  next k found =>
    have holds : ds[k].contains p = true := Fin.eq_true_of_find?_eq_some found
    exact ⟨fun h => absurd h (Fin.castSucc_lt_last k).ne, fun h => absurd ((h k).symm.trans holds) Bool.false_ne_true⟩
  next missed => exact iff_of_true rfl (Fin.eq_false_of_find?_eq_none missed)

/-- The floor box is no part of the descriptors, so it takes no part in the lookup (R41). -/
theorem lookup_congr {s s' : State} (same : s'.table.descriptors = s.table.descriptors) (p : Point) :
    s'.lookup p = s.lookup p :=
  congrArg (lookupIn · p) same

/-- Settles O22: the search of the descriptors stops at the lowest one whose present place holds the point, and fails exactly
when none does. -/
theorem lookupIsLowestPlace : Obligations.LookupIsLowestPlace := by
  intro s p inPlace
  have contains_iff (i : ZoneIndex) : s.table.descriptors[i].contains p = true ↔ inPlace i := by
    simp only [Descriptor.contains_iff, Box.holds_iff, inPlace]
  have not_contains_iff (i : ZoneIndex) : s.table.descriptors[i].contains p = false ↔ ¬inPlace i := by
    rw [← contains_iff, Bool.not_eq_true]
  refine ⟨fun i => ?_, ?_, fun s' same => lookup_congr same p⟩
  · simpa only [State.lookup, contains_iff, not_contains_iff] using lookupIn_eq_castSucc_iff s.table.descriptors p i
  · simpa only [State.lookup, not_contains_iff] using lookupIn_eq_floor_iff s.table.descriptors p

end Sys2Proof.Machine
end

section
/-! TRANSIT on either port (R19, R102): what its arrival hands on, and that the two queues' frames spell the received bytes. -/

namespace Sys2Proof.Machine

theorem InFrame.transit_fits_iff (h : Header) (payload : List Byte) :
    (InFrame.transit h payload).fits = true ↔ payload.length ≤ 40 :=
  decide_eq_true_iff

theorem exec_transit_d {s : State} {h : Header} {payload : List Byte} (takes : s.TakesD) (short : payload.length ≤ 40) :
    exec (.transit .d h payload) s = .next (takeTransitD h payload (setReceiver .d .idle s)) :=
  congrArg Host.Outcome.next (receive_d takes ((InFrame.transit_fits_iff h payload).2 short) rfl)

theorem exec_transit_u {s : State} {h : Header} {payload : List Byte} (takes : s.TakesU) (short : payload.length ≤ 40) :
    exec (.transit .u h payload) s = .next (takeTransitU h payload (setReceiver .u .idle s)) :=
  congrArg Host.Outcome.next (receive_u takes ((InFrame.transit_fits_iff h payload).2 short) rfl)

theorem takeTransitU_of_enabled {s : State} {h : Header} (payload : List Byte) (enabled : s.sources[h.source].enabled = true) :
    takeTransitU h payload s = pushDq (.transit h payload) s :=
  if_pos enabled

theorem takeTransitU_of_disabled {s : State} {h : Header} (payload : List Byte) (disabled : s.sources[h.source].enabled = false) :
    takeTransitU h payload s = refuse h .source 0 s :=
  if_neg (Bool.not_eq_true _ ▸ disabled)

/-- The verdict reads the source table, which the receiver's return to IDLE leaves alone. -/
theorem refuses_of_exec {c : Instr} {s : State} {h : Header} {r : Reason} {speed : Speed}
    (taken : exec c s = .next (refuse h r speed (setReceiver .u .idle s))) : Refuses c s h r speed := by
  have level : (setReceiver .u .idle s).effectiveLevel h = s.effectiveLevel h := by
    simp only [State.effectiveLevel, setReceiver_sources]
  have adjusted : (setReceiver .u .idle s).adjusted h = s.adjusted h := by
    simp only [State.adjusted, setReceiver_sources]
  rw [Refuses, taken, refuse, answer, State.effectiveHeader, level, adjusted]

/-- Settles O16: the arrival hands the frame to the other port's queue; on port U the enabled mark decides between that and
the refusal. -/
theorem transitForwarded : Obligations.TransitForwarded := by
  intro s h payload short
  refine ⟨fun takes => exec_transit_d takes short, fun takes enabled => ?_, fun takes disabled => ?_, rfl, rfl⟩
  · rw [exec_transit_u takes short, takeTransitU_of_enabled payload (by rwa [setReceiver_sources])]
  · apply refuses_of_exec
    rw [exec_transit_u takes short, takeTransitU_of_disabled payload (by rwa [setReceiver_sources])]

end Sys2Proof.Machine
end

section
/-! The reads of the tables (R25, R83, R131, R138, R142): which entry an index operand names, and what each read answers for
an index in range and for one beyond it. -/

namespace Sys2Proof.Machine

/-! ### Index operands -/

/-- The shape the index operands share: a byte that holds the number of an entry names it. -/
theorem index_eq_some {n : Nat} {b : Byte} {i : Fin n} (names : b.toNat = i.val) :
    (if h : b.toNat < n then some (⟨b.toNat, h⟩ : Fin n) else none) = some i := by
  rw [dif_pos (names ▸ i.isLt)]
  exact congrArg some (Fin.ext names)

theorem sourceOf_eq_some {b : Byte} {i : Source} (names : b.toNat = i.val) : sourceOf b = some i := index_eq_some names

theorem sourceOf_eq_none {b : Byte} (beyond : 7 < b.toNat) : sourceOf b = none := dif_neg (Nat.not_lt.2 beyond)

theorem windowOf_eq_some {b : Byte} {w : Fin 16} (names : b.toNat = w.val) : windowOf b = some w := index_eq_some names

theorem windowOf_eq_none {b : Byte} (beyond : 15 < b.toNat) : windowOf b = none := dif_neg (Nat.not_lt.2 beyond)

theorem timerOf_eq_some {b : Byte} {n : Fin 4} (names : b.toNat = n.val) : timerOf b = some n := index_eq_some names

theorem timerOf_eq_none {b : Byte} (beyond : 3 < b.toNat) : timerOf b = none := dif_neg (Nat.not_lt.2 beyond)

@[simp] theorem byteAt_singleton_zero (b : Byte) : byteAt [b] 0 = b := rfl

/-! ### The reads that take an index -/

theorem reqReadSource_of_named {b : Byte} {i : Source} (names : b.toNat = i.val) (s : State) :
    reqReadSource [b] s = .read [byteOfBool s.sources[i].enabled, byteOf s.sources[i].ceiling.val,
      byteOfBool s.sources[i].mayManage] s := by
  simp only [reqReadSource, byteAt_singleton_zero, sourceOf_eq_some names]

theorem reqReadSource_of_beyond {b : Byte} (beyond : 7 < b.toNat) (s : State) :
    reqReadSource [b] s = .refuse .badIndex s := by
  simp only [reqReadSource, byteAt_singleton_zero, sourceOf_eq_none beyond]

theorem reqReadWindow_of_named {b : Byte} {w : Fin 16} (names : b.toNat = w.val) (s : State) :
    reqReadWindow [b] s = .read (byteOfBool s.time.windows[w].inUse :: (patternBytes s.time.windows[w].openPattern ++
      patternBytes s.time.windows[w].closePattern ++ [byteOfBool s.time.windows[w].isOpen])) s := by
  simp only [reqReadWindow, byteAt_singleton_zero, windowOf_eq_some names]

theorem reqReadWindow_of_beyond {b : Byte} (beyond : 15 < b.toNat) (s : State) :
    reqReadWindow [b] s = .refuse .badIndex s := by
  simp only [reqReadWindow, byteAt_singleton_zero, windowOf_eq_none beyond]

theorem reqReadTimer_of_named {b : Byte} {n : Fin 4} (names : b.toNat = n.val) (s : State) :
    reqReadTimer [b] s = .read ([byteOfBool s.time.timers[n].enabled, s.time.timers[n].source.code] ++
      wordBytes s.time.timers[n].preset ++ [s.time.timers[n].action.code] ++ wordBytes s.time.timers[n].counter) s := by
  simp only [reqReadTimer, byteAt_singleton_zero, timerOf_eq_some names]

theorem reqReadTimer_of_beyond {b : Byte} (beyond : 3 < b.toNat) (s : State) :
    reqReadTimer [b] s = .refuse .badIndex s := by
  simp only [reqReadTimer, byteAt_singleton_zero, timerOf_eq_none beyond]

/-- Settles O59: the agent passes each read to its owner, which refuses an index beyond its table and otherwise answers the
entry's bytes; the data are those of the state before, as the receiver's return to IDLE touches no table. -/
theorem tableReads : Obligations.TableReads := by
  intro s h rid takes manages
  refine ⟨?floor, fun b beyond => ?sourceBeyond, fun b i names => ?source, ?time, fun b beyond => ?windowBeyond,
    fun b w names => ?window, fun b beyond => ?timerBeyond, fun b n names => ?timer⟩
  case floor => exact answers_of_read (r := .readFloor) takes manages rfl nofun rfl
  case time => exact answers_of_read (r := .readTime) takes manages rfl nofun rfl
  case source =>
    exact answers_of_read (r := .readSource) takes manages rfl nofun (reqReadSource_of_named names _)
  case sourceBeyond =>
    exact answers_of_refused (r := .readSource) takes manages rfl nofun (reqReadSource_of_beyond beyond _)
  case window =>
    exact answers_of_read (r := .readWindow) takes manages rfl nofun (reqReadWindow_of_named names _)
  case windowBeyond =>
    exact answers_of_refused (r := .readWindow) takes manages rfl nofun (reqReadWindow_of_beyond beyond _)
  case timer =>
    exact answers_of_read (r := .readTimer) takes manages rfl nofun (reqReadTimer_of_named names _)
  case timerBeyond =>
    exact answers_of_refused (r := .readTimer) takes manages rfl nofun (reqReadTimer_of_beyond beyond _)

end Sys2Proof.Machine
end

section
/-! LOCK (R170) and the requests the configuration lock refuses (R169): each of the six writes asks for the lock before it
reads an operand, so LOCKED comes before every other status of its owner. -/

namespace Sys2Proof.Machine

/-- The six requests that write locked configuration (R169). -/
def Request.lockedWrites : List Request := [.writeZone, .writeSource, .writeWindow, .writeTimer, .setAlert, .setFloor]

theorem Request.ne_reset_of_mem_lockedWrites {r : Request} (write : r ∈ Request.lockedWrites) : r ≠ .reset := by
  rintro rfl
  exact absurd write (by decide)

/-- The owner of a locked write refuses it under the lock, whatever its operands are (R169). -/
theorem Request.run_of_locked {r : Request} {s : State} (write : r ∈ Request.lockedWrites) (locked : s.gov.lock = true)
    (ops : List Byte) : r.run ops s = .refuse .locked s := by
  simp only [Request.lockedWrites, List.mem_cons, List.not_mem_nil, or_false] at write
  rcases write with rfl | rfl | rfl | rfl | rfl | rfl
  all_goals exact if_pos locked

theorem answers_locked {r : Request} {s : State} {h : Header} {rid : Byte} {ops : List Byte}
    (write : r ∈ Request.lockedWrites) (locked : s.gov.lock = true) (takes : s.TakesU) (manages : s.Manages h)
    (length : ops.length = r.operandLength) : Answers (r.command h rid ops) s h r.code rid .locked [] :=
  answers_of_refused takes manages length (Request.ne_reset_of_mem_lockedWrites write)
    (Request.run_of_locked write (by rwa [setReceiver_gov]) ops)

/-- LOCK is never refused by its owner, and the lock is all it writes (R170). -/
theorem answersOk_lock {s : State} {h : Header} {rid : Byte} (takes : s.TakesU) (manages : s.Manages h) :
    AnswersOk (.lockReq h rid []) h 0x50 rid s { setReceiver .u .idle s with gov := { s.gov with lock := true } } :=
  answersOk_of_ok (r := .lock) takes manages rfl nofun rfl

/-- The ALERTn line follows the flags, the alert enables and the pulses; the lock is no source of it (R155, R156). -/
theorem Governor.alertLow_withLock (g : Governor) (b : Bool) : Governor.alertLow { g with lock := b } = g.alertLow := rfl

/-- Settles O56: LOCK's owner writes the lock alone, so flags and ALERTn stand; placing the answer leaves the governor as it
is, and under the lock the owner of each of the six writes refuses it first. -/
theorem lockIsSet : Obligations.LockIsSet := by
  intro s h rid takes manages
  have answered := answersOk_lock (rid := rid) takes manages
  refine ⟨answered, fun t taken => ?_⟩
  obtain rfl := Host.Outcome.next.inj (answered.symm.trans taken)
  have governor := (calm_pushUq (.mgmtRsp { h with level := 0 } 0x50 rid .ok [])
    { setReceiver .u .idle s with gov := { s.gov with lock := true } }).sameGov
  rw [governor]
  refine ⟨rfl, rfl, Governor.alertLow_withLock s.gov true, pushUq_uq _ _, fun r h' rid' ops write takes' manages' length => ?_⟩
  exact answers_locked write (congrArg Governor.lock governor) takes' manages' length

end Sys2Proof.Machine
end

section
/-! Properties that every command keeps (the induction of Laws/Kept.lean): a form of it in which a change that leaves a
property's own fields alone need not be named, and the laws of the link unit that it gives. -/

namespace Sys2Proof.Machine

/-! ### The induction with silent changes -/

/-- Feeding keeps what each of its moves of one record keeps (R120). -/
theorem feedLoop_keeps {P : State → Prop}
    (fed : ∀ s r rest, s.occ.backlog = r :: rest → s.uqOpen = true → P s →
      P (modifyCtx r.carriage (fun x => { x with verdictOwed := false }) (pushUq r.frame { s with occ := { s.occ with backlog := rest } })))
    (n : Nat) {s : State} (hs : P s) : P (feedLoop n s) := by
  induction n generalizing s with
  | zero => exact hs
  | succ n ih =>
    unfold feedLoop
    split
    · exact hs
    · split
      · exact ih (fed _ _ _ ‹_› ‹_› hs)
      · exact hs

/-- What the internal steps keep, given the steps that reach the property's fields. -/
theorem Internal.keeps_of {P : State → Prop}
    (ctx : ∀ c x s, P s → P (setCtx c x s) := by intros; assumption)
    (grant : ∀ z s, s.hasRoom z = true → P s → P (grantClaim z s) := by intros; assumption)
    (drop : ∀ z s, P s → P (dropClaim z s) := by intros; assumption)
    (waits : ∀ z l s, P s → P (setWaits z l s) := by intros; assumption)
    (recheck : ∀ z b s, P s → P (setRecheck z b s) := by intros; assumption)
    (flag : ∀ f s, P s → P (raise f s) := by intros; assumption)
    (pool : ∀ p s, P s → P { s with occ := { s.occ with pool := p } } := by intros; assumption)
    (warn : ∀ b s, P s → P { s with occ := { s.occ with holdWarn := b } } := by intros; assumption)
    (backlog : ∀ l s, P s → P { s with occ := { s.occ with backlog := l } } := by intros; assumption)
    (drive : ∀ f s, s.dqOpen = true → P s → P (pushDq f s))
    (up : ∀ f s, s.uqOpen = true → P s → P (pushUq f s)) :
    ∀ s t, P s → Internal s t → P t := by
  have feeds : ∀ n s, P s → P (feedLoop n s) := fun n s h =>
    feedLoop_keeps (fun s r rest _ open_ hs => ctx _ _ _ (up _ { s with occ := { s.occ with backlog := rest } } open_ (backlog _ _ hs))) n h
  intro s t hs i
  cases i with
  | ctx c x => exact ctx c x s hs
  | grant z _ h => exact grant z s h hs
  | drop z => exact drop z s hs
  | waits z l => exact waits z l s hs
  | recheck z b => exact recheck z b s hs
  | flag f => exact flag f s hs
  | pool p => exact pool p s hs
  | warn b => exact warn b s hs
  | drive f _ h => exact drive f s h hs
  | report r => exact feeds _ _ (ctx _ _ _ (backlog _ _ hs))
  | feed => exact feeds _ _ hs

/-- The changes of `Kept`, each that leaves the property's own fields alone passed over. -/
structure KeptChanges (P : State → Prop) : Prop where
  internal : ∀ s t, P s → Internal s t → P t
  haltEntry : ∀ s, P s → P (haltEntry s)
  regrant : ∀ s (z : Zone) (l : List Zone), z ∈ l → P s → P (grantClaim z (l.foldl (fun s z => dropClaim z s) s))
  floor : ∀ s b, s.gov.lock = false → P s → P (withFloor b s) := by intros; assumption
  descriptor : ∀ s (i : ZoneIndex) d, s.gov.lock = false → s.descriptorInUse i = false →
      s.lookupsStand (s.table.descriptors.set i.val d) = true → P s → P (withDescriptor i d s) := by intros; assumption
  source : ∀ s (i : Source) r, s.gov.lock = false → P s → P { s with sources := s.sources.set i.val r } := by intros; assumption
  enables : ∀ s a h, s.gov.lock = false → P s → P (withGov (s.gov.writeEnables a h) s) := by intros; assumption
  clear : ∀ s m, P s → P (withGov (s.gov.clearFlags m) s) := by intros; assumption
  causeRead : ∀ s, P s → P (withGov { s.gov with cause := 0 } s) := by intros; assumption
  lock : ∀ s, P s → P (withGov { s.gov with lock := true } s) := by intros; assumption
  state : ∀ s g, P s → P (withGov { s.gov with state := g } s) := by intros; assumption
  setTime : ∀ s c, c.valid = true → P s →
      P (withTime { s.time with calendar := c, subSecond := 0, timeInvalid := false } s) := by intros; assumption
  closeWindow : ∀ s w, s.gov.lock = false → P s → P (setWindow w .unused s) := by intros; assumption
  writeWindow : ∀ s w e, s.gov.lock = false → e.inUse = true → (e.isOpen = true → s.time.timeInvalid = false) → P s →
      P (setWindow w e s) := by intros; assumption
  writeTimer : ∀ s (n : Fin 4) (t : Timer), s.gov.lock = false → t.preset ≠ 0 →
      t.counter = (if !s.time.timers[n].enabled && t.enabled then t.preset else s.time.timers[n].counter) → P s →
      P (setTimer n t s) := by intros; assumption
  receivers : ∀ s u d, P s → P (withLink { s.link with rxU := u, rxD := d } s) := by intros; assumption
  permits : ∀ s u d, P s → P (withLink { s.link with stoppedU := u, stoppedD := d } s) := by intros; assumption
  toDq : ∀ s f, s.link.dq.length < 16 → P s → P (pushDq f s)
  toUq : ∀ s f, s.link.uq.length < 16 → P s → P (pushUq f s)
  resetTaken : ∀ s f, s.link.uq.length < 16 → s.gov.softPending = false → P s → P (acceptReset (pushUqMarked f true s))
  uStart : ∀ s, s.link.uq ≠ [] → P s → P (withLink { s.link with sendingU := true } s) := by intros; assumption
  uStop : ∀ s, s.link.uq = [] → P s → P (withLink { s.link with sendingU := false } s) := by intros; assumption
  uDone : ∀ s e rest, s.link.uq = e :: rest → (e.answersReset && s.gov.softPending) = false → P s →
      P (feed (evalPauses
        { s with link := { s.link with sendingU := false, uq := rest }, wireU := s.wireU ++ [.frame e.frame.bytes] }))
  softReset : ∀ s e rest, s.link.uq = e :: rest → e.answersReset = true → s.gov.softPending = true → P s →
      P (Machine.softReset { s with link := { s.link with sendingU := false, uq := rest }, wireU := s.wireU ++ [.frame e.frame.bytes] })
  haltStart : ∀ s, P s → P (withLink { s.link with txD := .haltAll, haltSlot := false } s) := by intros; assumption
  haltDone : ∀ s, P s → P { s with link := { s.link with txD := .idle }, wireD := s.wireD ++ [.frame haltAllBytes] } := by
      intros; assumption
  dStart : ∀ s, s.link.dq ≠ [] → P s → P (withLink { s.link with txD := .frame } s) := by intros; assumption
  dStop : ∀ s, s.link.dq = [] → P s → P (withLink { s.link with txD := .idle } s) := by intros; assumption
  dDone : ∀ s f rest, s.link.dq = f :: rest → P s →
      P (evalPauses { s with link := { s.link with txD := .idle, dq := rest }, wireD := s.wireD ++ [.frame f.bytes] })
  countBase : ∀ s raw, P s → P (countBase raw s) := by intros; assumption
  divider : ∀ s, P s → P (withTime { s.time with divider := 0 } s) := by intros; assumption
  subSecond : ∀ s, P s → P (withTime { s.time with subSecond := 0 } s) := by intros; assumption
  lastSecond : ∀ s, P s →
      P (withTime { s.time with subSecond := 0, calendar := { s.time.calendar with seconds := 0x59 } } s) := by intros; assumption
  countTicks : ∀ s k, P s → P (countTicks k s) := by intros; assumption
  evalWindow : ∀ s (w : Fin 16) (b : Bool), s.time.timeInvalid = false → s.time.windows[w].inUse = true → P s →
      P (setWindow w { s.time.windows[w] with isOpen := b } s) := by intros; assumption
  reloadTimer : ∀ s (n : Fin 4), s.time.timers[n].enabled = true → P s →
      P (setTimer n { s.time.timers[n] with counter := s.time.timers[n].preset } s) := by intros; assumption
  pulses : ∀ s, P s → P (withGov s.gov.pulseTick s) := by intros; assumption
  endPulse : ∀ s (p : Fin 5), P s → P (withGov { s.gov with pulses := s.gov.pulses.set p.val 0 } s) := by intros; assumption
  stopn : ∀ s b, P s → P (withGov { s.gov with stopn := b, stopnCount := 0 } s) := by intros; assumption
  powerOnDone : ∀ s, s.gov.powerOnHold = true → P s →
      P { s with gov := { s.gov with powerOnHold := false }, wireU := s.wireU ++ [.go], wireD := s.wireD ++ [.go] } := by
        intros; assumption
  lineDone : ∀ s, s.gov.lineHold = true → P s →
      P { s with gov := { s.gov with lineHold := false }, wireU := s.wireU ++ [.go], wireD := s.wireD ++ [.go] } := by
        intros; assumption

/-- The induction over all commands, from the changes that reach the property's fields. -/
theorem KeptChanges.kept {P : State → Prop} (k : KeptChanges P) : Kept P where
  internal := k.internal
  haltEntry := k.haltEntry
  regrant := k.regrant
  floor := k.floor
  descriptor := k.descriptor
  source := k.source
  enables := k.enables
  clear := k.clear
  causeRead := k.causeRead
  lock := k.lock
  govern s h := k.state s _ h
  standby s h := k.state s _ h
  setTime := k.setTime
  closeWindow := k.closeWindow
  writeWindow := k.writeWindow
  writeTimer := k.writeTimer
  receiver s p r h := by
    cases p with
    | u => exact k.receivers s r s.link.rxD h
    | d => exact k.receivers s s.link.rxU r h
  permits := k.permits
  toDq := k.toDq
  toUq := k.toUq
  resetTaken := k.resetTaken
  uStart := k.uStart
  uStop := k.uStop
  uDone := k.uDone
  softReset := k.softReset
  haltStart := k.haltStart
  haltDone := k.haltDone
  dStart := k.dStart
  dStop := k.dStop
  dDone := k.dDone
  countBase := k.countBase
  divider := k.divider
  subSecond := k.subSecond
  lastSecond := k.lastSecond
  countTicks := k.countTicks
  evalWindow := k.evalWindow
  reloadTimer := k.reloadTimer
  pulses := k.pulses
  endPulse := k.endPulse
  stopn := k.stopn
  powerOnDone := k.powerOnDone
  lineDone := k.lineDone

/-- The claims dropped one after another, as a release drops them (R62): all else stands. -/
theorem foldl_dropClaim_eq (l : List Zone) (s : State) :
    ∃ claims, l.foldl (fun s z => dropClaim z s) s = { s with occ := { s.occ with claims := claims } } := by
  induction l generalizing s with
  | nil => exact ⟨_, rfl⟩
  | cons z l ih =>
    obtain ⟨claims, eq⟩ := ih (dropClaim z s)
    exact ⟨claims, eq⟩

/-! ### The pause states -/

theorem pausesAgree_evalPauses (s : State) : (evalPauses s).PausesAgree := by
  rw [evalPauses_eq]
  exact ⟨rfl, rfl⟩

theorem kept_pausesAgree : Kept State.PausesAgree :=
  have internal : ∀ s t : State, s.PausesAgree → Internal s t → t.PausesAgree :=
    Internal.keeps_of (drive := fun _ _ _ _ => pausesAgree_evalPauses _) (up := fun _ _ _ _ => pausesAgree_evalPauses _)
  KeptChanges.kept
    { internal
      haltEntry := fun s _ => by obtain ⟨u, -, eq⟩ := haltEntry_run s; rw [eq]; exact pausesAgree_evalPauses u
      regrant := fun s z l _ h => by obtain ⟨claims, eq⟩ := foldl_dropClaim_eq l s; rw [eq]; exact h
      toDq := fun _ _ _ _ => pausesAgree_evalPauses _
      toUq := fun _ _ _ _ => pausesAgree_evalPauses _
      resetTaken := fun _ _ _ _ _ => pausesAgree_evalPauses _
      uDone := fun _ _ _ _ _ _ => internal _ _ (pausesAgree_evalPauses _) (.feed _)
      softReset := fun _ _ _ _ _ _ _ => ⟨rfl, rfl⟩
      dDone := fun _ _ _ _ _ => pausesAgree_evalPauses _ }

/-- Settles O12: every re-evaluation leaves both marks as their conditions give them (R10), and what touches a condition
re-evaluates; a hard reset leaves empty queues and permits. -/
theorem stepKeepsPauses : Obligations.StepKeepsPauses := fun _ _ hs h =>
  kept_pausesAgree.step (fun _ _ => ⟨rfl, rfl⟩) (fun _ _ => ⟨rfl, rfl⟩) (fun _ _ h => h) hs h

/-! ### The queues and the transmitters -/

/-- Both laws of the queues: at most 16 frames, and a frame for a transmitter that is sending (R12, R16, R17). -/
def State.QueuesLawful (s : State) : Prop := s.QueuesBounded ∧ s.TransmittersLawful

theorem queuesLawful_pushDq {s : State} (f : DFrame) (room : s.link.dq.length < 16) (h : s.QueuesLawful) :
    (pushDq f s).QueuesLawful := by
  obtain ⟨⟨dq, uq⟩, sending, tx⟩ := h
  rw [pushDq, evalPauses_eq]
  exact ⟨⟨by simpa using room, uq⟩, sending, by simp⟩

theorem queuesLawful_pushUqMarked {s : State} (f : UFrame) (b : Bool) (room : s.link.uq.length < 16) (h : s.QueuesLawful) :
    (pushUqMarked f b s).QueuesLawful := by
  obtain ⟨⟨dq, uq⟩, sending, tx⟩ := h
  rw [pushUqMarked, evalPauses_eq]
  exact ⟨⟨dq, by simpa using room⟩, by simp, tx⟩

theorem queuesLawful_evalPauses {s : State} (h : s.QueuesLawful) : (evalPauses s).QueuesLawful := by
  rw [evalPauses_eq]; exact h

/-- A purge removes frames, but not the head that is being sent (R18). -/
theorem queuesLawful_haltAndPurge {s : State} (h : s.QueuesLawful) : (haltAndPurge s).QueuesLawful := by
  obtain ⟨⟨dq, uq⟩, sending, tx⟩ := h
  have kept_sublist : s.link.kept.Sublist s.link.dq := by
    unfold Link.kept Link.unsent
    split
    · calc (s.link.dq.take 1 ++ s.link.dq.tail.filter (fun f => !f.isDriveMove)).Sublist (s.link.dq.take 1 ++ s.link.dq.tail) :=
            (List.Sublist.refl _).append List.filter_sublist
        _ = s.link.dq := by rw [← List.drop_one, List.take_append_drop]
    · exact List.filter_sublist
  refine ⟨⟨kept_sublist.length_le.trans dq, uq⟩, sending, fun frame => ?_⟩
  have head : s.link.dq ≠ [] := tx frame
  have frame' : s.link.txD = .frame := frame
  show s.link.kept ≠ []
  rw [Link.kept, if_pos frame']
  cases hd : s.link.dq with
  | nil => exact absurd hd head
  | cons f rest => exact List.cons_ne_nil _ _

theorem kept_queuesLawful : Kept State.QueuesLawful :=
  have internal : ∀ s t : State, s.QueuesLawful → Internal s t → t.QueuesLawful :=
    Internal.keeps_of
      (drive := fun f s room h => queuesLawful_pushDq f (by have : 3 < 16 - s.link.dq.length := of_decide_eq_true room; omega) h)
      (up := fun f s room h => queuesLawful_pushUqMarked f _ (by have : 3 < 16 - s.link.uq.length := of_decide_eq_true room; omega) h)
  KeptChanges.kept
    { internal
      haltEntry := fun _ h => haltEntry_keeps internal (fun _ => queuesLawful_haltAndPurge) (fun _ => queuesLawful_evalPauses) h
      regrant := fun s z l _ h => by obtain ⟨claims, eq⟩ := foldl_dropClaim_eq l s; rw [eq]; exact h
      toDq := fun _ f room h => queuesLawful_pushDq f room h
      toUq := fun _ f room h => queuesLawful_pushUqMarked f _ room h
      resetTaken := fun _ f room _ h => queuesLawful_evalPauses (queuesLawful_pushUqMarked f _ room h)
      uStart := fun _ frames ⟨bounded, _, tx⟩ => ⟨bounded, fun _ => frames, tx⟩
      uStop := fun _ _ ⟨bounded, _, tx⟩ => ⟨bounded, nofun, tx⟩
      uDone := fun s e rest frames _ ⟨⟨dq, uq⟩, _, tx⟩ =>
        have shorter : rest.length ≤ 16 := (Nat.le_succ _).trans (frames ▸ uq : (e :: rest).length ≤ 16)
        have popped : State.QueuesLawful
            { s with link := { s.link with sendingU := false, uq := rest }, wireU := s.wireU ++ [.frame e.frame.bytes] } :=
          ⟨⟨dq, shorter⟩, nofun, tx⟩
        internal _ _ (queuesLawful_evalPauses popped) (.feed _)
      softReset := fun _ _ _ _ _ _ _ => ⟨⟨Nat.zero_le _, Nat.zero_le _⟩, nofun, nofun⟩
      haltStart := fun _ ⟨bounded, sending, _⟩ => ⟨bounded, sending, nofun⟩
      haltDone := fun _ ⟨bounded, sending, _⟩ => ⟨bounded, sending, nofun⟩
      dStart := fun _ frames ⟨bounded, sending, _⟩ => ⟨bounded, sending, fun _ => frames⟩
      dStop := fun _ _ ⟨bounded, sending, _⟩ => ⟨bounded, sending, nofun⟩
      dDone := fun s f rest frames ⟨⟨dq, uq⟩, sending, _⟩ =>
        queuesLawful_evalPauses ⟨⟨by rw [frames] at dq; exact Nat.le_of_succ_le dq, uq⟩, sending, nofun⟩ }

/-- Settles O13: a frame enters a queue only where a place is free (R8, R14), and a transmitter begins only a frame that is
there. -/
theorem stepKeepsQueues : Obligations.StepKeepsQueues := fun _ _ bounded transmitters h =>
  have empty : (State.reset).QueuesLawful := ⟨⟨Nat.zero_le _, Nat.zero_le _⟩, nofun, nofun⟩
  kept_queuesLawful.step (fun _ _ => empty) (fun _ _ => empty) (fun _ _ h => h) ⟨bounded, transmitters⟩ h

/-! ### The pending soft reset -/

theorem softPendingLawful_pushUq {s : State} (f : UFrame) (h : s.SoftPendingLawful) : (pushUq f s).SoftPendingLawful := by
  unfold State.SoftPendingLawful at h ⊢
  rw [(calm_pushUq f s).sameGov, pushUq_uq, h]
  simp

theorem softPendingLawful_evalPauses {s : State} (h : s.SoftPendingLawful) : (evalPauses s).SoftPendingLawful := by
  rw [evalPauses_eq]; exact h

theorem kept_softPendingLawful : Kept State.SoftPendingLawful :=
  have internal : ∀ s t : State, s.SoftPendingLawful → Internal s t → t.SoftPendingLawful :=
    Internal.keeps_of (drive := fun _ _ _ h => softPendingLawful_evalPauses (by exact h))
      (up := fun f _ _ h => softPendingLawful_pushUq f h)
  KeptChanges.kept
    { internal
      haltEntry := fun _ h => haltEntry_keeps internal (fun _ h => h) (fun _ => softPendingLawful_evalPauses) h
      regrant := fun s z l _ h => by obtain ⟨claims, eq⟩ := foldl_dropClaim_eq l s; rw [eq]; exact h
      toDq := fun _ _ _ h => softPendingLawful_evalPauses (by exact h)
      toUq := fun _ f _ h => softPendingLawful_pushUq f h
      resetTaken := fun s f _ _ _ => by
        refine softPendingLawful_evalPauses ?_
        show true = (pushUqMarked f true s).link.uq.any (·.answersReset)
        rw [pushUqMarked_uq]; simp
      uDone := fun s e rest frames other h => by
        refine internal _ _ (softPendingLawful_evalPauses ?_) (.feed _)
        unfold State.SoftPendingLawful at h
        rw [frames, List.any_cons] at h
        show s.gov.softPending = rest.any (·.answersReset)
        cases marked : e.answersReset with
        | false => simpa [marked] using h
        | true => simp [marked, h] at other
      softReset := fun _ _ _ _ _ _ _ => rfl
      dDone := fun _ _ _ _ h => softPendingLawful_evalPauses (by exact h) }

/-- Settles O14: only the taking of a RESET places a marked response, together with the pending mark (R171), and only the
completion of that response, or a hard reset, ends both (R173). -/
theorem stepKeepsSoftReset : Obligations.StepKeepsSoftReset := fun _ _ hs h =>
  kept_softPendingLawful.step (fun _ _ => rfl) (fun _ _ => rfl) (fun _ _ h => h) hs h

end Sys2Proof.Machine
end

section
/-! The laws of capacity, of the fed backlog, of the clock and of the alert line, and the configuration under the lock: each
kept by every command through the induction of Laws/Kept.lean. -/

namespace Sys2Proof.Machine

/-! ### The queue of commands and the record of outputs -/

/-- The commands that wait are those of `s`, and what has been sent goes on from what `s` had sent (log 15). -/
def Continues (s t : State) : Prop := t.pending = s.pending ∧ s.wireU <+: t.wireU ∧ s.wireD <+: t.wireD

theorem Continues.refl (s : State) : Continues s s := ⟨rfl, List.prefix_refl _, List.prefix_refl _⟩

theorem Continues.of_traffic {s t u : State} (h : Continues s t) (k : Traffic t u) : Continues s u :=
  ⟨k.pending.trans h.1, h.2.1.trans k.wireU, h.2.2.trans k.wireD⟩

/-- What has been sent is sent still when one output follows on each port at most. -/
theorem Continues.sends {s t u : State} {outU outD : List Wire} (h : Continues s t) (pending : u.pending = t.pending)
    (wireU : u.wireU = t.wireU ++ outU) (wireD : u.wireD = t.wireD ++ outD) : Continues s u :=
  ⟨pending.trans h.1, wireU ▸ h.2.1.trans (List.prefix_append _ _), wireD ▸ h.2.2.trans (List.prefix_append _ _)⟩

theorem continues_pushUqMarked {s t : State} (f : UFrame) (b : Bool) (h : Continues s t) : Continues s (pushUqMarked f b t) :=
  Continues.of_traffic (t := { t with link := { t.link with uq := t.link.uq ++ [{ frame := f, answersReset := b }] } }) h
    (traffic_evalPauses _)

theorem kept_continues (s : State) : Kept (Continues s) :=
  have internal : ∀ t u : State, Continues s t → Internal t u → Continues s u := fun _ _ h i => h.of_traffic i.traffic
  have pauses : ∀ t : State, Continues s t → Continues s (evalPauses t) := fun _ h => h.of_traffic (traffic_evalPauses _)
  KeptChanges.kept
    { internal
      haltEntry := fun _ h => haltEntry_keeps internal (fun _ h => h) pauses h
      regrant := fun t z l _ h => by obtain ⟨claims, eq⟩ := foldl_dropClaim_eq l t; rw [eq]; exact h
      toDq := fun _ f _ h => h.of_traffic (traffic_pushDq f _)
      toUq := fun _ f _ h => h.of_traffic (traffic_pushUq f _)
      resetTaken := fun _ f _ _ h => pauses _ (continues_pushUqMarked f true h)
      uDone := fun _ _ _ _ _ h => by
        refine internal _ _ (pauses _ ?_) (.feed _)
        exact h.sends rfl rfl (List.append_nil _).symm
      softReset := fun t e rest _ _ _ h =>
        (h.sends (u := { t with link := { t.link with sendingU := false, uq := rest }, wireU := t.wireU ++ [.frame e.frame.bytes] })
          rfl rfl (List.append_nil _).symm).sends rfl rfl rfl
      haltDone := fun _ h => h.sends rfl (List.append_nil _).symm rfl
      dDone := fun _ _ _ _ h => pauses _ (h.sends rfl (List.append_nil _).symm rfl)
      powerOnDone := fun _ _ h => h.sends rfl rfl rfl
      lineDone := fun _ _ h => h.sends rfl rfl rfl }

/-- Settles O2: every change goes on from the outputs sent before, and none touches the queue; the hard resets keep both. -/
theorem commandsLeaveQueueAndRecord : Obligations.CommandsLeaveQueueAndRecord := fun _ s _ h =>
  (kept_continues s).exec (.refl s) (fun _ => .refl s) (fun _ => .refl s) h

/-! ### Capacities -/

theorem capacityKept_congr {s t : State} (table : t.table = s.table) (claims : ∀ z, t.claimCount z ≤ s.claimCount z)
    (h : s.CapacityKept) : t.CapacityKept := by
  intro z limited
  have same : t.placeAt z = s.placeAt z := by unfold State.placeAt State.descriptor; rw [table]
  rw [same] at limited ⊢
  exact (claims z).trans (h z limited)

theorem capacityKept_dropClaim {s : State} (z : Zone) (h : s.CapacityKept) : (dropClaim z s).CapacityKept :=
  capacityKept_congr (s := s) rfl (fun z' => by
    rw [claimCount_dropClaim]
    split
    next eq => subst eq; exact Nat.sub_le _ _
    next => exact Nat.le_refl _) h

/-- A claim that is granted keeps a capacity above the count. -/
theorem capacityKept_grantClaim {s : State} {z : Zone} (room : (s.placeAt z).capacity ≠ 0 → s.claimCount z < (s.placeAt z).capacity)
    (h : s.CapacityKept) : (grantClaim z s).CapacityKept := by
  intro z' limited
  have same : (grantClaim z s).placeAt z' = s.placeAt z' := rfl
  rw [same] at limited ⊢
  rw [claimCount_grantClaim]
  split
  next eq => subst eq; exact room limited
  next => exact h z' limited

theorem capacityKept_foldl_dropClaim {s : State} (l : List Zone) (h : s.CapacityKept) :
    (l.foldl (fun s z => dropClaim z s) s).CapacityKept := by
  induction l generalizing s with
  | nil => exact h
  | cons z l ih => exact ih (capacityKept_dropClaim z h)

/-- A count only falls while claims are dropped, and falls where it can if its zone's claim is among them. -/
theorem claimCount_foldl_dropClaim (l : List Zone) (s : State) (z : Zone) :
    (l.foldl (fun s z => dropClaim z s) s).claimCount z ≤ s.claimCount z ∧
      (z ∈ l → (l.foldl (fun s z => dropClaim z s) s).claimCount z ≤ s.claimCount z - 1) := by
  induction l generalizing s with
  | nil => exact ⟨Nat.le_refl _, nofun⟩
  | cons a l ih =>
    obtain ⟨falls, named⟩ := ih (dropClaim a s)
    simp only [List.foldl_cons]
    rw [claimCount_dropClaim] at falls named
    by_cases first : a = z
    · subst first
      rw [if_pos rfl] at falls
      exact ⟨falls.trans (Nat.sub_le _ _), fun _ => falls⟩
    · rw [if_neg first] at falls named
      exact ⟨falls, fun mem => named ((List.mem_cons.1 mem).resolve_left fun e => first e.symm)⟩

/-- A replaced descriptor leaves every other place as it was. -/
theorem placeAt_withDescriptor {i : ZoneIndex} {z : Zone} (other : z ≠ i.castSucc) (d : Descriptor) (s : State) :
    (withDescriptor i d s).placeAt z = s.placeAt z := by
  unfold State.placeAt State.descriptor withDescriptor
  by_cases in_table : z.val < 64
  · have ne : i.val ≠ z.val := fun e => other (Fin.ext e.symm)
    simp [in_table, Vector.getElem_set_ne _ _ ne]
  · simp [in_table]

/-- A descriptor without claims is replaced by any other (R49, R51). -/
theorem capacityKept_withDescriptor {s : State} {i : ZoneIndex} (d : Descriptor) (unused : s.descriptorInUse i = false)
    (h : s.CapacityKept) : (withDescriptor i d s).CapacityKept := by
  intro z limited
  have counts : (withDescriptor i d s).claimCount z = s.claimCount z := rfl
  rw [counts]
  by_cases at_i : z = i.castSucc
  · subst at_i
    simp only [State.descriptorInUse, Bool.or_eq_false_iff, decide_eq_false_iff_not] at unused
    omega
  · rw [placeAt_withDescriptor at_i] at limited ⊢
    exact h z limited

theorem kept_capacityKept : Kept State.CapacityKept :=
  have silent : ∀ s : State, s.CapacityKept → ∀ t : State, t.table = s.table → t.occ = s.occ → t.CapacityKept :=
    fun s h t table occ => capacityKept_congr table (fun z => by simp [State.claimCount, occ]) h
  have pauses : ∀ s : State, s.CapacityKept → (evalPauses s).CapacityKept := fun s h =>
    silent s h _ (evalPauses_table s) (evalPauses_occ s)
  have internal : ∀ s t : State, s.CapacityKept → Internal s t → t.CapacityKept :=
    Internal.keeps_of
      (grant := fun z s room h => capacityKept_grantClaim (fun limited => by
        simpa [State.hasRoom, limited] using room) h)
      (drop := fun z _ h => capacityKept_dropClaim z h)
      (drive := fun _ _ _ h => pauses _ (by exact h)) (up := fun _ _ _ h => pauses _ (by exact h))
  KeptChanges.kept
    { internal
      haltEntry := fun _ h => haltEntry_keeps internal (fun _ h => h) pauses h
      regrant := fun s z l mem h => by
        refine capacityKept_grantClaim (fun limited => ?_) (capacityKept_foldl_dropClaim l h)
        have fallen := (claimCount_foldl_dropClaim l s z).2 mem
        obtain ⟨claims, eq⟩ := foldl_dropClaim_eq l s
        have same : (l.foldl (fun s z => dropClaim z s) s).placeAt z = s.placeAt z := by rw [eq]; rfl
        rw [same] at limited ⊢
        have within := h z limited
        omega
      descriptor := fun _ _ d _ unused _ h => capacityKept_withDescriptor d unused h
      toDq := fun _ _ _ h => pauses _ (by exact h)
      toUq := fun _ _ _ h => pauses _ (by exact h)
      resetTaken := fun s f _ _ h => pauses _ (pauses { s with link := { s.link with uq := s.link.uq ++ [⟨f, true⟩] } } h)
      uDone := fun _ _ _ _ _ h => internal _ _ (pauses _ (by exact h)) (.feed _)
      softReset := fun s e rest _ _ _ _ z _ => by
        refine Nat.le_trans (Nat.le_of_eq ?_) (Nat.zero_le _)
        simp [softReset, sendGo, State.claimCount, Occupancy.reset]
      dDone := fun _ _ _ _ h => pauses _ (by exact h)
      countTicks := fun s k h => by
        refine capacityKept_congr (s := s) rfl (fun z => Nat.le_of_eq ?_) h
        unfold countTicks State.claimCount
        dsimp only
        split <;> rfl }

/-- Settles O36: a claim is granted only where a place is free or one of the carriage's own claims there was dropped before
(R61, R96, R104), and a descriptor is replaced only where no claim stands (R49). -/
theorem stepKeepsCapacity : Obligations.StepKeepsCapacity := fun _ _ hs h =>
  have empty : ∀ s : State, s.occ = Occupancy.reset → s.CapacityKept := fun s occ z _ => by
    simp [State.claimCount, occ, Occupancy.reset]
  kept_capacityKept.step (fun _ _ => empty _ rfl) (fun _ _ => empty _ rfl) (fun _ _ h => h) hs h

/-! ### The fed backlog -/

/-- After a feeding the backlog is empty or UQ is closed (R120). -/
theorem backlogFed_feed (s : State) : (feed s).BacklogFed := by
  have all : ∀ (n : Nat) (t : State), t.occ.backlog.length ≤ n → (feedLoop n t).BacklogFed := by
    intro n
    induction n with
    | zero => exact fun t short => .inl (List.length_eq_zero_iff.1 (Nat.le_zero.1 short))
    | succ n ih =>
      intro t short
      unfold feedLoop
      split
      next none => exact .inl none
      next r rest some =>
        split
        next =>
          refine ih _ ?_
          show (evalPauses _).occ.backlog.length ≤ n
          rw [evalPauses_occ]
          simpa [some] using short
        next closed => exact .inr (by simpa using closed)
  exact all _ s (Nat.le_refl _)

/-- The law rests on the backlog and on the length of UQ alone; a longer UQ keeps it. -/
theorem backlogFed_congr {s t : State} (backlog : t.occ.backlog = s.occ.backlog) (uq : s.link.uq.length ≤ t.link.uq.length)
    (h : s.BacklogFed) : t.BacklogFed := by
  unfold State.BacklogFed State.uqOpen State.freeUq Config.queuePlaces Config.reserve at h ⊢
  rw [backlog]
  refine h.imp id fun closed => ?_
  simp only [decide_eq_false_iff_not] at closed ⊢
  omega

theorem backlogFed_evalPauses {s : State} (h : s.BacklogFed) : (evalPauses s).BacklogFed :=
  backlogFed_congr (by rw [evalPauses_occ]) (by rw [evalPauses_uq]) h

theorem backlogFed_pushUqMarked {s : State} (f : UFrame) (b : Bool) (h : s.BacklogFed) : (pushUqMarked f b s).BacklogFed :=
  backlogFed_evalPauses (backlogFed_congr (s := s) rfl (by simp) h)

theorem Internal.backlogFed {s t : State} (h : s.BacklogFed) (i : Internal s t) : t.BacklogFed := by
  cases i with
  | drive f => exact backlogFed_evalPauses (s := { s with link := { s.link with dq := s.link.dq ++ [f] } }) h
  | report r => exact backlogFed_feed _
  | feed => exact backlogFed_feed _
  | ctx c x => exact h
  | grant z => exact h
  | drop z => exact h
  | waits z l => exact h
  | recheck z b => exact h
  | flag f => exact h
  | pool p => exact h
  | warn b => exact h

theorem kept_backlogFed : Kept State.BacklogFed :=
  KeptChanges.kept
    { internal := fun _ _ h i => i.backlogFed h
      haltEntry := fun _ h => haltEntry_keeps (P := State.BacklogFed) (fun _ _ h i => i.backlogFed h) (fun _ h => h)
        (fun _ => backlogFed_evalPauses) h
      regrant := fun s z l _ h => by obtain ⟨claims, eq⟩ := foldl_dropClaim_eq l s; rw [eq]; exact h
      toDq := fun _ _ _ h => backlogFed_evalPauses (by exact h)
      toUq := fun _ f _ h => backlogFed_pushUqMarked f false h
      resetTaken := fun _ f _ _ h => backlogFed_evalPauses (backlogFed_pushUqMarked f true h)
      uDone := fun _ _ _ _ _ _ => backlogFed_feed _
      softReset := fun _ _ _ _ _ _ _ => .inl rfl
      dDone := fun _ _ _ _ h => backlogFed_evalPauses (by exact h)
      countTicks := fun s k h => backlogFed_congr (s := s) (by unfold countTicks; dsimp only; split <;> rfl) (Nat.le_refl _) h }

/-- Settles O38: a record that enters the backlog, and a frame that leaves UQ, are each followed by a feeding (R120). -/
theorem stepKeepsBacklogFed : Obligations.StepKeepsBacklogFed := fun _ _ hs h =>
  kept_backlogFed.step (fun _ _ => .inl rfl) (fun _ _ => .inl rfl) (fun _ _ h => h) hs h

end Sys2Proof.Machine
end

section
/-! The calendar (R127, R128): BCD bytes, what a valid set of fields is, and one second added stage by stage. -/

namespace Sys2Proof.Machine

/-! ### BCD bytes -/

theorem bcdWithin_iff (lo hi : Nat) (b : Byte) :
    bcdWithin lo hi b = true ↔ (b.toNat / 16 ≤ 9 ∧ b.toNat % 16 ≤ 9) ∧ lo ≤ bcdValue b ∧ bcdValue b ≤ hi := by
  simp [bcdWithin, isBcd, and_assoc]

theorem toBcd_toNat {n : Nat} (small : n ≤ 99) : (toBcd n).toNat = n / 10 * 16 + n % 10 := by
  rw [toBcd, byteOf, BitVec.toNat_ofNat, Nat.mod_eq_of_lt (by omega)]

@[simp] theorem bcdValue_toBcd {n : Nat} (small : n ≤ 99) : bcdValue (toBcd n) = n := by
  rw [bcdValue, toBcd_toNat small]; omega

/-- A number written in BCD is a byte of its range. -/
theorem bcdWithin_toBcd {lo hi n : Nat} (small : hi ≤ 99) (above : lo ≤ n) (below : n ≤ hi) : bcdWithin lo hi (toBcd n) = true := by
  rw [bcdWithin_iff, bcdValue_toBcd (below.trans small), toBcd_toNat (below.trans small)]
  omega

theorem bcdValue_zero : bcdValue 0x00 = 0 := rfl

theorem bcdValue_one : bcdValue 0x01 = 1 := rfl

theorem bcdWithin_one : bcdWithin 1 12 0x01 = true := rfl

theorem bcdWithin_zero (hi : Nat) : bcdWithin 0 hi 0x00 = true := by
  rw [bcdWithin_iff, bcdValue_zero]
  exact ⟨by decide, Nat.le_refl _, Nat.zero_le _⟩

/-! ### Months and weekdays -/

theorem monthLength_eq (month year : Nat) : monthLength month year =
    if month ∈ [4, 6, 9, 11] then 30 else if month = 2 then (if year % 4 = 0 then 29 else 28) else 31 := by
  simp only [monthLength, List.mem_cons, List.not_mem_nil, or_false, Bool.or_eq_true, decide_eq_true_eq, or_assoc]

theorem monthLength_bounds (month year : Nat) : 28 ≤ monthLength month year ∧ monthLength month year ≤ 31 := by
  unfold monthLength
  repeat' split
  all_goals omega

theorem isWeekday_iff (b : Byte) : isWeekday b = true ↔ b ∈ [0x01, 0x02, 0x04, 0x08, 0x10, 0x20, 0x40] := by
  simp [isWeekday, or_assoc]

theorem isWeekday_nextWeekday {b : Byte} (h : isWeekday b = true) : isWeekday (nextWeekday b) = true := by
  rw [isWeekday_iff] at h
  simp only [List.mem_cons, List.not_mem_nil, or_false] at h
  rcases h with rfl | rfl | rfl | rfl | rfl | rfl | rfl <;> rfl

/-! ### Valid fields -/

/-- The time of day is valid (R127). -/
def Calendar.TimeValid (c : Calendar) : Prop :=
  bcdWithin 0 59 c.seconds = true ∧ bcdWithin 0 59 c.minutes = true ∧ bcdWithin 0 23 c.hours = true

/-- Weekday and date are valid (R127). -/
def Calendar.DateValid (c : Calendar) : Prop :=
  isWeekday c.weekday = true ∧ bcdWithin 1 12 c.month = true ∧ bcdWithin 0 99 c.year = true ∧
    bcdWithin 1 (monthLength (bcdValue c.month) (bcdValue c.year)) c.day = true

theorem Calendar.valid_iff (c : Calendar) : c.valid = true ↔ c.TimeValid ∧ c.DateValid := by
  simp [Calendar.valid, Calendar.TimeValid, Calendar.DateValid, and_assoc]

/-- The seconds since midnight. -/
def Calendar.secondOfDay (c : Calendar) : Nat := bcdValue c.seconds + 60 * bcdValue c.minutes + 3600 * bcdValue c.hours

/-! ### The stages of an advance -/

/-- The year advances alone, from 99 to 00 (R128 step 6). -/
theorem nextYear_spec {c : Calendar} (year : bcdWithin 0 99 c.year = true) :
    nextYear c = { c with year := (nextYear c).year } ∧ bcdWithin 0 99 (nextYear c).year = true ∧
      bcdValue (nextYear c).year = (bcdValue c.year + 1) % 100 := by
  obtain ⟨-, -, top⟩ := (bcdWithin_iff _ _ _).1 year
  refine ⟨rfl, ?_⟩
  unfold nextYear
  dsimp only
  split
  next last => exact ⟨rfl, by rw [last]; rfl⟩
  next other =>
    refine ⟨bcdWithin_toBcd (by omega) (by omega) (by omega), ?_⟩
    rw [bcdValue_toBcd (by omega), Nat.mod_eq_of_lt (by omega)]

/-- The month advances, with the year after December (R128 step 5); day 1 is valid in any month. -/
theorem nextMonth_spec {c : Calendar} (month : bcdWithin 1 12 c.month = true) (year : bcdWithin 0 99 c.year = true) :
    nextMonth c = { c with month := (nextMonth c).month, year := (nextMonth c).year } ∧
      bcdWithin 1 12 (nextMonth c).month = true ∧ bcdWithin 0 99 (nextMonth c).year = true ∧
      (bcdValue c.month < 12 → bcdValue (nextMonth c).month = bcdValue c.month + 1 ∧ (nextMonth c).year = c.year) ∧
      (bcdValue c.month = 12 → bcdValue (nextMonth c).month = 1 ∧
        bcdValue (nextMonth c).year = (bcdValue c.year + 1) % 100) := by
  obtain ⟨-, -, top⟩ := (bcdWithin_iff _ _ _).1 month
  unfold nextMonth
  split
  next last =>
    obtain ⟨-, valid, value⟩ := nextYear_spec (c := { c with month := 0x01 }) year
    exact ⟨rfl, bcdWithin_one, valid, fun less => absurd last (by omega), fun _ => ⟨bcdValue_one, value⟩⟩
  next other =>
    refine ⟨rfl, bcdWithin_toBcd (by omega) (by omega) (by omega), year, fun _ => ⟨?_, rfl⟩, fun last => absurd last other⟩
    exact bcdValue_toBcd (by omega)

/-- Weekday and day advance together (R128 step 4). -/
theorem nextDay_spec {c : Calendar} (date : c.DateValid) :
    nextDay c = { c with weekday := nextWeekday c.weekday, day := (nextDay c).day, month := (nextDay c).month, year := (nextDay c).year } ∧
      (nextDay c).DateValid ∧
      (bcdValue c.day < monthLength (bcdValue c.month) (bcdValue c.year) →
        bcdValue (nextDay c).day = bcdValue c.day + 1 ∧ (nextDay c).month = c.month ∧ (nextDay c).year = c.year) ∧
      (bcdValue c.day = monthLength (bcdValue c.month) (bcdValue c.year) → bcdValue (nextDay c).day = 1 ∧
        (bcdValue c.month < 12 → bcdValue (nextDay c).month = bcdValue c.month + 1 ∧ (nextDay c).year = c.year) ∧
        (bcdValue c.month = 12 → bcdValue (nextDay c).month = 1 ∧ bcdValue (nextDay c).year = (bcdValue c.year + 1) % 100)) := by
  obtain ⟨weekday, month, year, day⟩ := date
  obtain ⟨-, -, top⟩ := (bcdWithin_iff _ _ _).1 day
  have short := monthLength_bounds (bcdValue c.month) (bcdValue c.year)
  unfold nextDay
  dsimp only
  split
  next last =>
    obtain ⟨eq, month', year', less, december⟩ :=
      nextMonth_spec (c := { c with weekday := nextWeekday c.weekday, day := 0x01 }) month year
    have same_weekday := congrArg Calendar.weekday eq
    have same_day := congrArg Calendar.day eq
    dsimp only at same_weekday same_day
    refine ⟨by rw [same_day]; exact eq, ⟨?_, month', year', ?_⟩, fun below => absurd last (by omega), fun _ => ⟨?_, less, december⟩⟩
    · rw [same_weekday]; exact isWeekday_nextWeekday weekday
    · rw [same_day, bcdWithin_iff]
      refine ⟨by decide, by decide, ?_⟩
      rw [bcdValue_one]
      exact Nat.le_trans (by omega) (monthLength_bounds _ _).1
    · rw [same_day]; rfl
  next other =>
    have value : bcdValue (toBcd (bcdValue c.day + 1)) = bcdValue c.day + 1 := bcdValue_toBcd (by omega)
    have day' : bcdWithin 1 (monthLength (bcdValue c.month) (bcdValue c.year)) (toBcd (bcdValue c.day + 1)) = true :=
      bcdWithin_toBcd (by omega) (by omega) (by omega)
    exact ⟨rfl, ⟨isWeekday_nextWeekday weekday, month, year, day'⟩,
      fun _ => ⟨value, rfl, rfl⟩, fun last => absurd last other⟩

/-- Short of midnight one second moves the time of day alone (R128 steps 1 to 3). -/
theorem advance_of_not_midnight {c : Calendar} (time : c.TimeValid) (early : c.secondOfDay ≠ 86399) :
    c.advance = { c with seconds := c.advance.seconds, minutes := c.advance.minutes, hours := c.advance.hours } ∧
      c.advance.TimeValid ∧ c.advance.secondOfDay = c.secondOfDay + 1 := by
  obtain ⟨seconds, minutes, hours⟩ := time
  obtain ⟨-, -, s59⟩ := (bcdWithin_iff _ _ _).1 seconds
  obtain ⟨-, -, m59⟩ := (bcdWithin_iff _ _ _).1 minutes
  obtain ⟨-, -, h23⟩ := (bcdWithin_iff _ _ _).1 hours
  unfold Calendar.secondOfDay at early ⊢
  by_cases s_last : bcdValue c.seconds = 59
  · by_cases m_last : bcdValue c.minutes = 59
    · have h_early : bcdValue c.hours ≠ 23 := by omega
      have value : bcdValue (toBcd (bcdValue c.hours + 1)) = bcdValue c.hours + 1 := bcdValue_toBcd (by omega)
      have valid : bcdWithin 0 23 (toBcd (bcdValue c.hours + 1)) = true := bcdWithin_toBcd (by omega) (by omega) (by omega)
      simp only [Calendar.advance, nextMinute, nextHour, s_last, m_last, h_early, if_true, if_false, value, bcdValue_zero]
      exact ⟨trivial, ⟨bcdWithin_zero _, bcdWithin_zero _, valid⟩, by omega⟩
    · have value : bcdValue (toBcd (bcdValue c.minutes + 1)) = bcdValue c.minutes + 1 := bcdValue_toBcd (by omega)
      have valid : bcdWithin 0 59 (toBcd (bcdValue c.minutes + 1)) = true := bcdWithin_toBcd (by omega) (by omega) (by omega)
      simp only [Calendar.advance, nextMinute, s_last, m_last, if_true, if_false, value, bcdValue_zero]
      exact ⟨trivial, ⟨bcdWithin_zero _, valid, hours⟩, by omega⟩
  · have value : bcdValue (toBcd (bcdValue c.seconds + 1)) = bcdValue c.seconds + 1 := bcdValue_toBcd (by omega)
    have valid : bcdWithin 0 59 (toBcd (bcdValue c.seconds + 1)) = true := bcdWithin_toBcd (by omega) (by omega) (by omega)
    simp only [Calendar.advance, s_last, if_false, value]
    exact ⟨trivial, ⟨valid, minutes, hours⟩, by omega⟩

/-- At midnight the time of day wraps and the day advances (R128 steps 1 to 4). -/
theorem advance_of_midnight {c : Calendar} (time : c.TimeValid) (midnight : c.secondOfDay = 86399) :
    c.advance = nextDay { c with seconds := 0x00, minutes := 0x00, hours := 0x00 } := by
  obtain ⟨seconds, minutes, hours⟩ := time
  obtain ⟨-, -, s59⟩ := (bcdWithin_iff _ _ _).1 seconds
  obtain ⟨-, -, m59⟩ := (bcdWithin_iff _ _ _).1 minutes
  obtain ⟨-, -, h23⟩ := (bcdWithin_iff _ _ _).1 hours
  unfold Calendar.secondOfDay at midnight
  have s_last : bcdValue c.seconds = 59 := by omega
  have m_last : bcdValue c.minutes = 59 := by omega
  have h_last : bcdValue c.hours = 23 := by omega
  simp only [Calendar.advance, nextMinute, nextHour, s_last, m_last, h_last, if_true]

/-- One second added keeps the calendar valid (R127, R128). -/
theorem advance_valid {c : Calendar} (h : c.valid = true) : c.advance.valid = true := by
  obtain ⟨time, date⟩ := c.valid_iff.1 h
  rw [Calendar.valid_iff]
  by_cases midnight : c.secondOfDay = 86399
  · rw [advance_of_midnight time midnight]
    obtain ⟨eq, date', -⟩ := nextDay_spec (c := { c with seconds := 0x00, minutes := 0x00, hours := 0x00 }) date
    exact ⟨by rw [eq]; exact ⟨bcdWithin_zero _, bcdWithin_zero _, bcdWithin_zero _⟩, date'⟩
  · obtain ⟨eq, time', -⟩ := advance_of_not_midnight time midnight
    exact ⟨time', by rw [eq]; exact date⟩

/-- Settles O46: validity field by field, and the advance stage by stage: short of midnight the time of day alone, at midnight
weekday and date. -/
theorem calendarAdvances : Obligations.CalendarAdvances := by
  unfold Obligations.CalendarAdvances
  intro value length
  have lengths : ∀ month year, length month year = monthLength month year := fun month year => (monthLength_eq month year).symm
  refine ⟨fun c => ?_, fun c valid => ?_⟩
  · have values : ∀ b, value b = bcdValue b := fun _ => rfl
    rw [Calendar.valid_iff, Calendar.TimeValid, Calendar.DateValid, isWeekday_iff]
    simp only [bcdWithin_iff, lengths, values, List.mem_cons, List.not_mem_nil, or_false,
      forall_eq_or_imp, forall_eq, Nat.zero_le, true_and]
    constructor
    · rintro ⟨⟨⟨ds, s⟩, ⟨dm, m⟩, dh, h⟩, weekday, ⟨dmo, mo⟩, ⟨dy, -⟩, dd, d⟩
      exact ⟨⟨ds, dm, dh, dd, dmo, dy⟩, s, m, h, weekday, mo.1, mo.2, d.1, d.2⟩
    · rintro ⟨⟨ds, dm, dh, dd, dmo, dy⟩, s, m, h, weekday, mo1, mo2, d1, d2⟩
      have year : bcdValue c.year ≤ 99 := by rw [bcdValue]; omega
      exact ⟨⟨⟨ds, s⟩, ⟨dm, m⟩, dh, h⟩, weekday, ⟨dmo, mo1, mo2⟩, ⟨dy, year⟩, dd, d1, d2⟩
  · obtain ⟨time, date⟩ := c.valid_iff.1 valid
    refine ⟨advance_valid valid, ?_⟩
    simp only [lengths]
    by_cases midnight : c.secondOfDay = 86399
    · rw [advance_of_midnight time midnight]
      obtain ⟨eq, -, within, last⟩ := nextDay_spec (c := { c with seconds := 0x00, minutes := 0x00, hours := 0x00 }) date
      refine ⟨?_, fun early => absurd midnight early, fun _ => ⟨?_, within, last⟩⟩
      · rw [eq]
        show bcdValue 0x00 + 60 * bcdValue 0x00 + 3600 * bcdValue 0x00 = (c.secondOfDay + 1) % 86400
        rw [midnight, bcdValue_zero]
      · rw [eq]; rfl
    · obtain ⟨eq, -, next⟩ := advance_of_not_midnight time midnight
      have later : c.secondOfDay < 86399 := by
        obtain ⟨seconds, minutes, hours⟩ := time
        simp only [bcdWithin_iff] at seconds minutes hours
        unfold Calendar.secondOfDay at midnight ⊢
        omega
      refine ⟨?_, fun _ => by rw [eq]; exact ⟨rfl, rfl, rfl, rfl⟩, fun h => absurd h midnight⟩
      show c.advance.secondOfDay = (c.secondOfDay + 1) % 86400
      rw [next, Nat.mod_eq_of_lt (by omega)]

end Sys2Proof.Machine
end

section
/-! The clock, the windows, the alert pulses and the locked configuration: laws that every command keeps. -/

namespace Sys2Proof.Machine

/-! ### The clock -/

/-- A preset that is not 0, and a counter that is not 0 while the timer is enabled (R139). -/
def Timer.Lawful (t : Timer) : Prop := t.preset ≠ 0 ∧ (t.enabled = true → t.counter ≠ 0)

/-- The laws of calendar, counts and debounce together (R125 to R127, R139, R149). -/
def State.ClockLawful (s : State) : Prop := s.CalendarValid ∧ s.CountsLawful ∧ s.DebounceLawful

theorem Timer.lawful_count {t : Timer} (k : Ticks) (h : t.Lawful) : (t.count k).Lawful := by
  obtain ⟨preset, counter⟩ := h
  unfold Timer.count
  split
  next counts =>
    simp only [Bool.and_eq_true, decide_eq_true_eq] at counts
    refine ⟨preset, fun _ zero => ?_⟩
    have above := counts.2
    simp only at zero
    bv_omega
  next => exact ⟨preset, counter⟩

theorem clockLawful_setTimer {s : State} (n : Fin 4) {t : Timer} (lawful : t.Lawful) (h : s.ClockLawful) :
    (setTimer n t s).ClockLawful := by
  obtain ⟨calendar, ⟨divider, subSecond, timers⟩, debounce⟩ := h
  refine ⟨calendar, ⟨divider, subSecond, fun m => ?_⟩, debounce⟩
  simp only [setTimer_time, Fin.getElem_fin, Vector.getElem_set]
  split
  next => exact lawful
  next => exact timers m

theorem clockLawful_evalPauses {s : State} (h : s.ClockLawful) : (evalPauses s).ClockLawful := by
  rw [evalPauses_eq]; exact h

theorem debounce_lt {raw level : Bool} {count : Nat} (h : count < 4) : (debounce raw level count).2 < 4 := by
  unfold debounce
  split
  · exact Nat.zero_lt_succ _
  · split
    · exact Nat.zero_lt_succ _
    · show count + 1 < 4
      omega

theorem valid_lastSecond {c : Calendar} (h : c.valid = true) : Calendar.valid { c with seconds := 0x59 } = true := by
  obtain ⟨⟨-, minutes, hours⟩, date⟩ := c.valid_iff.1 h
  have last : bcdWithin 0 59 0x59 = true := rfl
  exact (Calendar.valid_iff _).2 ⟨⟨last, minutes, hours⟩, date⟩

theorem clockLawful_countBase {s : State} (raw : Bool) (h : s.ClockLawful) : (countBase raw s).ClockLawful := by
  obtain ⟨calendar, ⟨divider, subSecond, timers⟩, count⟩ := h
  refine ⟨calendar, ⟨Nat.mod_lt _ (by decide), ?_, timers⟩, debounce_lt count⟩
  show (if 999 ≤ s.time.subSecond then 0 else s.time.subSecond + 1) < 1000
  split <;> omega

theorem clockLawful_countTicks {s : State} (k : Ticks) (h : s.ClockLawful) : (countTicks k s).ClockLawful := by
  obtain ⟨calendar, ⟨divider, subSecond, timers⟩, count⟩ := h
  refine ⟨?_, ⟨divider, subSecond, fun n => ?_⟩, count⟩
  · show (if k.second = true then s.time.calendar.advance else s.time.calendar).valid = true
    split
    · exact advance_valid calendar
    · exact calendar
  · simp only [countTicks, Fin.getElem_fin, Vector.getElem_map]
    exact Timer.lawful_count k (timers n)

theorem kept_clockLawful : Kept State.ClockLawful :=
  have pauses : ∀ s : State, s.ClockLawful → (evalPauses s).ClockLawful := fun _ => clockLawful_evalPauses
  have internal : ∀ s t : State, s.ClockLawful → Internal s t → t.ClockLawful :=
    Internal.keeps_of (drive := fun _ _ _ h => pauses _ (by exact h)) (up := fun _ _ _ h => pauses _ (by exact h))
  KeptChanges.kept
    { internal
      haltEntry := fun _ h => haltEntry_keeps internal (fun _ h => h) pauses h
      regrant := fun s z l _ h => by obtain ⟨claims, eq⟩ := foldl_dropClaim_eq l s; rw [eq]; exact h
      setTime := fun _ _ valid ⟨_, ⟨divider, _, timers⟩, count⟩ => ⟨valid, ⟨divider, Nat.zero_lt_succ _, timers⟩, count⟩
      writeTimer := fun s n t _ preset counter h => by
        refine clockLawful_setTimer n ⟨preset, fun enabled => ?_⟩ h
        rw [counter, enabled, Bool.and_true]
        cases old : s.time.timers[n].enabled with
        | true => exact (h.2.1.2.2 n).2 old
        | false => exact preset
      toDq := fun _ _ _ h => pauses _ (by exact h)
      toUq := fun _ _ _ h => pauses _ (by exact h)
      resetTaken := fun s f _ _ h => pauses _ (pauses { s with link := { s.link with uq := s.link.uq ++ [⟨f, true⟩] } } h)
      uDone := fun _ _ _ _ _ h => internal _ _ (pauses _ (by exact h)) (.feed _)
      softReset := fun s _ _ _ _ _ ⟨calendar, ⟨divider, subSecond, timers⟩, count⟩ => by
        refine ⟨calendar, ⟨divider, subSecond, fun n => ?_⟩, count⟩
        obtain ⟨preset, counter⟩ := timers n
        simp only [softReset, sendGo, Fin.getElem_fin, Vector.getElem_map]
        unfold Timer.reload
        split
        · exact ⟨preset, fun _ => preset⟩
        · exact ⟨preset, counter⟩
      dDone := fun _ _ _ _ h => pauses _ (by exact h)
      countBase := fun _ raw h => clockLawful_countBase raw h
      divider := fun _ ⟨calendar, ⟨_, rest⟩, count⟩ => ⟨calendar, ⟨Nat.zero_lt_succ _, rest⟩, count⟩
      subSecond := fun _ ⟨calendar, ⟨divider, _, timers⟩, count⟩ => ⟨calendar, ⟨divider, Nat.zero_lt_succ _, timers⟩, count⟩
      lastSecond := fun _ ⟨calendar, ⟨divider, _, timers⟩, count⟩ =>
        ⟨valid_lastSecond calendar, ⟨divider, Nat.zero_lt_succ _, timers⟩, count⟩
      countTicks := fun _ k h => clockLawful_countTicks k h
      reloadTimer := fun _ n _ h => clockLawful_setTimer n ⟨(h.2.1.2.2 n).1, fun _ => (h.2.1.2.2 n).1⟩ h
      stopn := fun _ _ ⟨calendar, counts, _⟩ => ⟨calendar, counts, Nat.zero_lt_succ _⟩ }

/-! ### The windows -/

theorem windowsLawful_setWindow {s : State} (w : Fin 16) {e : WindowEntry}
    (closed : s.time.timeInvalid = true → e.isOpen = false) (unused : e.inUse = false → e = .unused) (h : s.WindowsLawful) :
    (setWindow w e s).WindowsLawful := by
  intro v
  simp only [setWindow_time, Fin.getElem_fin, Vector.getElem_set]
  split
  next => exact ⟨closed, unused⟩
  next => exact h v

theorem windowsLawful_evalPauses {s : State} (h : s.WindowsLawful) : (evalPauses s).WindowsLawful := by
  rw [evalPauses_eq]; exact h

theorem kept_windowsLawful : Kept State.WindowsLawful :=
  have pauses : ∀ s : State, s.WindowsLawful → (evalPauses s).WindowsLawful := fun _ => windowsLawful_evalPauses
  have internal : ∀ s t : State, s.WindowsLawful → Internal s t → t.WindowsLawful :=
    Internal.keeps_of (drive := fun _ _ _ h => pauses _ (by exact h)) (up := fun _ _ _ h => pauses _ (by exact h))
  KeptChanges.kept
    { internal
      haltEntry := fun _ h => haltEntry_keeps internal (fun _ h => h) pauses h
      regrant := fun s z l _ h => by obtain ⟨claims, eq⟩ := foldl_dropClaim_eq l s; rw [eq]; exact h
      setTime := fun _ _ _ h w => ⟨nofun, (h w).2⟩
      closeWindow := fun _ w _ h => windowsLawful_setWindow w (fun _ => rfl) (fun _ => rfl) h
      writeWindow := fun s w e _ used opened h => by
        refine windowsLawful_setWindow w (fun invalid => ?_) (fun unused => ?_) h
        · cases open_ : e.isOpen with
          | false => rfl
          | true => rw [opened open_] at invalid; cases invalid
        · rw [used] at unused; cases unused
      toDq := fun _ _ _ h => pauses _ (by exact h)
      toUq := fun _ _ _ h => pauses _ (by exact h)
      resetTaken := fun s f _ _ h => pauses _ (pauses { s with link := { s.link with uq := s.link.uq ++ [⟨f, true⟩] } } h)
      uDone := fun _ _ _ _ _ h => internal _ _ (pauses _ (by exact h)) (.feed _)
      softReset := fun _ _ _ _ _ _ h => h
      dDone := fun _ _ _ _ h => pauses _ (by exact h)
      evalWindow := fun s w b valid used h => by
        refine windowsLawful_setWindow w (fun invalid => ?_) (fun unused => ?_) h
        · rw [valid] at invalid; cases invalid
        · have unused' : s.time.windows[w].inUse = false := unused
          rw [used] at unused'; cases unused' }

/-- Settles O47: each change of the time unit stays in its ranges, and a window is opened only in use and with a valid time. -/
theorem stepKeepsClock : Obligations.StepKeepsClock := by
  refine ⟨fun s t calendar counts debounce h => ?_, fun s t hs h => ?_⟩
  · have fresh : ∀ n : Fin 4, Timer.Lawful TimeUnit.reset.timers[n] := fun n => by
      simp [TimeUnit.reset, Timer.Lawful, Timer.reset]
    have begun : TimeUnit.reset.calendar.valid = true := by decide
    refine kept_clockLawful.step (fun s _ => ?_) (fun s h => ?_) (fun _ _ h => h) ⟨calendar, counts, debounce⟩ h
    · exact ⟨begun, ⟨Nat.zero_lt_succ _, Nat.zero_lt_succ _, fresh⟩, Nat.zero_lt_succ _⟩
    · exact ⟨h.1, ⟨h.2.1.1, h.2.1.2.1, fresh⟩, h.2.2⟩
  · have fresh : ∀ w : Fin 16, TimeUnit.reset.windows[w] = WindowEntry.unused := fun w => by
      simp [TimeUnit.reset]
    have lawful : ∀ s : State, s.time.windows = TimeUnit.reset.windows → s.WindowsLawful := fun s windows w => by
      rw [windows, fresh]
      exact ⟨fun _ => rfl, fun _ => rfl⟩
    exact kept_windowsLawful.step (fun _ _ => lawful _ rfl) (fun _ _ => lawful _ rfl) (fun _ _ h => h) hs h

/-! ### The alert pulses -/

/-- The pulse of a flag is governed by the flag's own alert enable (R153, R156). -/
theorem Flag.bit_of_pulse {f : Flag} {p : Fin 5} (h : f.pulse = some p) : f.bit = 7 + p.val := by
  cases f with
  | window => cases h; rfl
  | cycle n => cases h; show 8 + n.val = 7 + (1 + n.val); omega
  | _ => cases h

theorem pulsesLawful_raise {s : State} (f : Flag) (h : s.PulsesLawful) : (raise f s).PulsesLawful := by
  intro p
  show (s.gov.raise f).pulses[p] ≤ 8 ∧ (0 < (s.gov.raise f).pulses[p] → s.gov.pulseEnabled p = true)
  unfold Governor.raise
  dsimp only
  cases pulse : f.pulse with
  | none => exact h p
  | some q =>
    dsimp only
    split
    next enabled =>
      simp only [Fin.getElem_fin, Vector.getElem_set]
      split
      next eq =>
        refine ⟨Nat.le_refl _, fun _ => ?_⟩
        rwa [Governor.pulseEnabled, ← eq, ← Flag.bit_of_pulse pulse]
      next => exact h p
    next => exact h p

/-- Pulses that are no longer than before, under the same enables, keep the law. -/
theorem pulsesLawful_of_le {s t : State} (enables : t.gov.alertEnables = s.gov.alertEnables)
    (shorter : ∀ p : Fin 5, t.gov.pulses[p] ≤ s.gov.pulses[p]) (h : s.PulsesLawful) : t.PulsesLawful := by
  intro p
  obtain ⟨bound, governed⟩ := h p
  refine ⟨(shorter p).trans bound, fun runs => ?_⟩
  rw [Governor.pulseEnabled, enables]
  exact governed (Nat.lt_of_lt_of_le runs (shorter p))

theorem kept_pulsesLawful : Kept State.PulsesLawful :=
  have pauses : ∀ s : State, s.PulsesLawful → (evalPauses s).PulsesLawful := fun s h => by rw [evalPauses_eq]; exact h
  have internal : ∀ s t : State, s.PulsesLawful → Internal s t → t.PulsesLawful :=
    Internal.keeps_of (flag := fun f _ h => pulsesLawful_raise f h)
      (drive := fun _ _ _ h => pauses _ (by exact h)) (up := fun _ _ _ h => pauses _ (by exact h))
  KeptChanges.kept
    { internal
      haltEntry := fun _ h => haltEntry_keeps internal (fun _ h => h) pauses h
      regrant := fun s z l _ h => by obtain ⟨claims, eq⟩ := foldl_dropClaim_eq l s; rw [eq]; exact h
      enables := fun s a e _ h p => by
        simp only [withGov, Governor.writeEnables, Governor.pulseEnabled, Fin.getElem_fin, Vector.getElem_ofFn]
        split
        next on => exact ⟨(h p).1, fun _ => on⟩
        next => exact ⟨Nat.zero_le _, fun runs => absurd runs (Nat.lt_irrefl 0)⟩
      toDq := fun _ _ _ h => pauses _ (by exact h)
      toUq := fun _ _ _ h => pauses _ (by exact h)
      resetTaken := fun s f _ _ h => pauses _ (pauses { s with link := { s.link with uq := s.link.uq ++ [⟨f, true⟩] } } h)
      uDone := fun _ _ _ _ _ h => internal _ _ (pauses _ (by exact h)) (.feed _)
      softReset := fun s _ _ _ _ _ h => pulsesLawful_of_le (s := s) rfl (fun p => by simp [softReset, sendGo]) h
      dDone := fun _ _ _ _ h => pauses _ (by exact h)
      pulses := fun s h => pulsesLawful_of_le (s := s) rfl (fun p => by simp [withGov, Governor.pulseTick]) h
      endPulse := fun s p h => pulsesLawful_of_le (s := s) rfl (fun q => by
        simp only [withGov, Fin.getElem_fin, Vector.getElem_set]
        split
        · exact Nat.zero_le _
        · exact Nat.le_refl _) h }

/-- Settles O53: a pulse begins at 8 and only under its enable, which no change clears without ending it; so a pulse that holds
ALERTn low, like a level-type flag that does, shows an enable that is set. -/
theorem stepKeepsAlertLaw : Obligations.StepKeepsAlertLaw := by
  refine ⟨fun s t hs h => ?_, fun s hs low none => ?_⟩
  · have fresh : ∀ s : State, s.gov.pulses = Governor.reset.pulses → s.PulsesLawful := fun s pulses p => by
      have zero : s.gov.pulses[p] = 0 := by rw [pulses]; simp [Governor.reset]
      rw [zero]
      exact ⟨Nat.zero_le _, fun runs => absurd runs (Nat.lt_irrefl 0)⟩
    exact kept_pulsesLawful.step (fun _ _ => fresh _ rfl) (fun _ _ => fresh _ rfl) (fun _ _ h => h) hs h
  · rw [Governor.alertLow, none, Bool.or_eq_true] at low
    rcases low with level | pulse
    · simp at level
    · obtain ⟨n, mem, runs⟩ := List.any_eq_true.1 pulse
      obtain ⟨i, bound, at_i⟩ := Vector.mem_iff_getElem.1 (Vector.mem_toList_iff.1 mem)
      have governed := (hs ⟨i, bound⟩).2 (by simpa [at_i] using runs)
      rw [Governor.pulseEnabled, none] at governed
      simp at governed

/-! ### The configuration under the lock -/

/-- The lock is set, and the configuration it fixes stands as in `s` (R169): windows may still open and close, and timers
count. -/
structure Locked (s t : State) : Prop where
  lock : t.gov.lock = true
  table : t.table = s.table
  sources : t.sources = s.sources
  haltEnables : t.gov.haltEnables = s.gov.haltEnables
  alertEnables : t.gov.alertEnables = s.gov.alertEnables
  windows : ∀ w : Fin 16, t.time.windows[w] = { s.time.windows[w] with isOpen := t.time.windows[w].isOpen }
  timers : ∀ n : Fin 4, t.time.timers[n] = { s.time.timers[n] with counter := t.time.timers[n].counter }

theorem Locked.refl {s : State} (h : s.gov.lock = true) : Locked s s := ⟨h, rfl, rfl, rfl, rfl, fun _ => rfl, fun _ => rfl⟩

theorem Locked.of_timers {s t u : State} (h : Locked s t) (lock : u.gov.lock = t.gov.lock) (table : u.table = t.table)
    (sources : u.sources = t.sources) (haltEnables : u.gov.haltEnables = t.gov.haltEnables)
    (alertEnables : u.gov.alertEnables = t.gov.alertEnables) (windows : u.time.windows = t.time.windows)
    (timers : ∀ n : Fin 4, u.time.timers[n] = { t.time.timers[n] with counter := u.time.timers[n].counter }) : Locked s u where
  lock := lock.trans h.lock
  table := table.trans h.table
  sources := sources.trans h.sources
  haltEnables := haltEnables.trans h.haltEnables
  alertEnables := alertEnables.trans h.alertEnables
  windows w := by rw [windows]; exact h.windows w
  timers n := by rw [timers n, h.timers n]

/-- Under the lock no locked write is taken. -/
theorem Locked.unlocked {s t : State} {p : Prop} (h : Locked s t) (unlocked : t.gov.lock = false) : p := by
  rw [h.lock] at unlocked; cases unlocked

theorem Timer.count_eq (t : Timer) (k : Ticks) : t.count k = { t with counter := (t.count k).counter } := by
  unfold Timer.count; split <;> rfl

theorem Timer.reload_eq (t : Timer) : t.reload = { t with counter := t.reload.counter } := by
  unfold Timer.reload; split <;> rfl

theorem kept_locked (s : State) : Kept (Locked s) :=
  have pauses : ∀ t : State, Locked s t → Locked s (evalPauses t) := fun t h => by
    rw [evalPauses_eq]; exact h.of_timers rfl rfl rfl rfl rfl rfl (fun _ => rfl)
  have silent : ∀ {t u : State}, Locked s t → u.gov.lock = t.gov.lock → u.table = t.table → u.sources = t.sources →
      u.gov.haltEnables = t.gov.haltEnables → u.gov.alertEnables = t.gov.alertEnables → u.time = t.time → Locked s u :=
    fun h lock table sources halts alerts time =>
      h.of_timers lock table sources halts alerts (by rw [time]) (fun _ => by rw [time])
  have internal : ∀ t u : State, Locked s t → Internal t u → Locked s u := fun t u h i => by
    have k := i.traffic
    obtain ⟨flags, pulses, gov⟩ := k.gov
    exact silent h (by rw [gov]) k.table k.sources (by rw [gov]) (by rw [gov]) k.time
  KeptChanges.kept
    { internal
      haltEntry := fun _ h => haltEntry_keeps internal (fun _ h => silent h rfl rfl rfl rfl rfl rfl) pauses h
      regrant := fun t z l _ h => by
        obtain ⟨claims, eq⟩ := foldl_dropClaim_eq l t; rw [eq]; exact silent h rfl rfl rfl rfl rfl rfl
      floor := fun _ _ unlocked h => h.unlocked unlocked
      descriptor := fun _ _ _ unlocked _ _ h => h.unlocked unlocked
      source := fun _ _ _ unlocked h => h.unlocked unlocked
      enables := fun _ _ _ unlocked h => h.unlocked unlocked
      clear := fun _ _ h => silent h rfl rfl rfl rfl rfl rfl
      causeRead := fun _ h => silent h rfl rfl rfl rfl rfl rfl
      lock := fun _ h => silent h h.lock.symm rfl rfl rfl rfl rfl
      state := fun _ _ h => silent h rfl rfl rfl rfl rfl rfl
      setTime := fun _ _ _ h => h.of_timers rfl rfl rfl rfl rfl rfl (fun _ => rfl)
      closeWindow := fun _ _ unlocked h => h.unlocked unlocked
      writeWindow := fun _ _ _ unlocked _ _ h => h.unlocked unlocked
      writeTimer := fun _ _ _ unlocked _ _ h => h.unlocked unlocked
      receivers := fun _ _ _ h => silent h rfl rfl rfl rfl rfl rfl
      permits := fun _ _ _ h => silent h rfl rfl rfl rfl rfl rfl
      toDq := fun _ _ _ h => pauses _ (silent h rfl rfl rfl rfl rfl rfl)
      toUq := fun _ _ _ h => pauses _ (silent h rfl rfl rfl rfl rfl rfl)
      resetTaken := fun t f _ _ h => pauses _ (silent (t := pushUqMarked f true t)
        (pauses _ (silent h rfl rfl rfl rfl rfl rfl)) rfl rfl rfl rfl rfl rfl)
      uStart := fun _ _ h => silent h rfl rfl rfl rfl rfl rfl
      uStop := fun _ _ h => silent h rfl rfl rfl rfl rfl rfl
      uDone := fun _ _ _ _ _ h => by
        refine internal _ _ (pauses _ ?_) (.feed _)
        exact silent h rfl rfl rfl rfl rfl rfl
      softReset := fun t _ _ _ _ _ h => h.of_timers rfl rfl rfl rfl rfl rfl (fun n => by
        simp only [softReset, sendGo, Fin.getElem_fin, Vector.getElem_map]
        exact Timer.reload_eq _)
      haltStart := fun _ h => silent h rfl rfl rfl rfl rfl rfl
      haltDone := fun _ h => silent h rfl rfl rfl rfl rfl rfl
      dStart := fun _ _ h => silent h rfl rfl rfl rfl rfl rfl
      dStop := fun _ _ h => silent h rfl rfl rfl rfl rfl rfl
      dDone := fun _ _ _ _ h => pauses _ (silent h rfl rfl rfl rfl rfl rfl)
      countBase := fun _ _ h => h.of_timers rfl rfl rfl rfl rfl rfl (fun _ => rfl)
      divider := fun _ h => h.of_timers rfl rfl rfl rfl rfl rfl (fun _ => rfl)
      subSecond := fun _ h => h.of_timers rfl rfl rfl rfl rfl rfl (fun _ => rfl)
      lastSecond := fun _ h => h.of_timers rfl rfl rfl rfl rfl rfl (fun _ => rfl)
      countTicks := fun t k h => h.of_timers rfl rfl rfl rfl rfl rfl (fun n => by
        simp only [countTicks, Fin.getElem_fin, Vector.getElem_map]
        exact Timer.count_eq _ _)
      evalWindow := fun t w b _ _ h =>
        { lock := h.lock, table := h.table, sources := h.sources, haltEnables := h.haltEnables, alertEnables := h.alertEnables
          timers := h.timers
          windows := fun v => by
            simp only [setWindow_time, Fin.getElem_fin, Vector.getElem_set]
            split
            next eq =>
              have same := h.windows w
              simp only [Fin.getElem_fin, eq] at same ⊢
              rw [same]
            next => exact h.windows v }
      reloadTimer := fun t n _ h => h.of_timers rfl rfl rfl rfl rfl rfl (fun m => by
        simp only [setTimer_time, Fin.getElem_fin, Vector.getElem_set]
        split
        next eq => simp only [eq]
        next => rfl)
      pulses := fun _ h => silent h rfl rfl rfl rfl rfl rfl
      endPulse := fun _ _ h => silent h rfl rfl rfl rfl rfl rfl
      stopn := fun _ _ h => silent h rfl rfl rfl rfl rfl rfl
      powerOnDone := fun _ _ h => silent h rfl rfl rfl rfl rfl rfl
      lineDone := fun _ _ h => silent h rfl rfl rfl rfl rfl rfl }

/-- Settles O57: under the lock no locked write is taken, and every other change leaves the fixed configuration; the owner of
each locked write asks for the lock first. -/
theorem lockHolds : Obligations.LockHolds := by
  refine ⟨fun c s t locked power line h => ?_, fun r s h rid ops write takes manages locked length =>
    answers_locked write locked takes manages length⟩
  have k := (kept_locked s).exec (.refl locked) (fun e => absurd e power) (fun e => absurd e line) h
  exact ⟨k.lock, k.table, k.sources, k.haltEnables, k.alertEnables, k.windows, k.timers⟩

end Sys2Proof.Machine
end

section
/-! A part that a reset holds (R159): the blocks at their reset values, and that every command keeps them so. -/

namespace Sys2Proof.Machine

/-- Governor control at its reset values, but for the STOPn debounce, the cause flags and the resets in force (R159). -/
def Governor.AtReset (g : Governor) : Prop :=
  g = { Governor.reset with
    stopn := g.stopn, stopnCount := g.stopnCount, cause := g.cause, powerOnHold := g.powerOnHold, lineHold := g.lineHold }

/-- Every block at its reset values, but for what goes on while a reset holds the part (R159). -/
structure State.AtReset (s : State) : Prop where
  link : s.link = Link.reset
  sources : s.sources = sourcesReset
  table : s.table = ZoneTable.reset
  occ : s.occ = Occupancy.reset
  carriages : ∀ c : Carriage, s.ctx c = Context.unenrolled
  windows : s.time.windows = TimeUnit.reset.windows
  timers : s.time.timers = TimeUnit.reset.timers
  gov : s.gov.AtReset

theorem heldInReset_iff (s : State) : s.HeldInReset ↔ (s.inReset = true → s.AtReset) :=
  ⟨fun h held => by
    obtain ⟨link, sources, table, occ, carriages, windows, timers, gov⟩ := h held
    exact { link, sources, table, occ, carriages, windows, timers, gov },
   fun h held =>
    have k := h held
    ⟨k.link, k.sources, k.table, k.occ, k.carriages, k.windows, k.timers, k.gov⟩⟩

theorem ctx_of_unenrolled {s : State} (h : s.carriages = Vector.replicate 32 .unenrolled) (c : Carriage) :
    s.ctx c = Context.unenrolled := by
  simp [State.ctx, h]

theorem atReset_powerOn (s : State) : (powerOn s).AtReset where
  link := rfl
  sources := rfl
  table := rfl
  occ := rfl
  carriages := ctx_of_unenrolled rfl
  windows := rfl
  timers := rfl
  gov := rfl

theorem atReset_lineReset (s : State) : (lineReset s).AtReset where
  link := rfl
  sources := rfl
  table := rfl
  occ := rfl
  carriages := ctx_of_unenrolled rfl
  windows := rfl
  timers := rfl
  gov := rfl

/-- No command but a hard reset puts the part in reset (R159). -/
theorem kept_notInReset : Kept fun s => s.inReset = false :=
  have of_gov : ∀ {s t : State}, s.inReset = false → t.gov.powerOnHold = s.gov.powerOnHold → t.gov.lineHold = s.gov.lineHold →
      t.inReset = false := fun h power line => by rw [State.inReset, power, line]; exact h
  have pauses : ∀ s : State, s.inReset = false → (evalPauses s).inReset = false := fun s h => by rw [evalPauses_eq]; exact h
  have internal : ∀ s t : State, s.inReset = false → Internal s t → t.inReset = false := fun s t h i => by
    obtain ⟨flags, pulses, gov⟩ := i.traffic.gov
    exact of_gov h (by rw [gov]) (by rw [gov])
  KeptChanges.kept
    { internal
      haltEntry := fun _ h => haltEntry_keeps (P := fun s => s.inReset = false) internal (fun _ h => h) pauses h
      regrant := fun s z l _ h => by obtain ⟨claims, eq⟩ := foldl_dropClaim_eq l s; rw [eq]; exact h
      toDq := fun _ _ _ h => pauses _ (by exact h)
      toUq := fun _ _ _ h => pauses _ (by exact h)
      resetTaken := fun s f _ _ h => pauses _ (pauses { s with link := { s.link with uq := s.link.uq ++ [⟨f, true⟩] } } h)
      uDone := fun _ _ _ _ _ h => internal _ _ (pauses _ (by exact h)) (.feed _)
      softReset := fun _ _ _ _ _ _ h => h
      dDone := fun _ _ _ _ h => pauses _ (by exact h)
      powerOnDone := fun _ _ h => (Bool.or_eq_false_iff.1 h).2
      lineDone := fun _ _ h => Bool.or_eq_false_iff.2 ⟨(Bool.or_eq_false_iff.1 h).1, rfl⟩ }

/-! ### What a held part does -/

namespace State.AtReset

variable {s : State} (h : s.AtReset)
include h

theorem pulses (p : Fin 5) : s.gov.pulses[p] = 0 := by
  rw [h.gov]; simp [Governor.reset]

theorem standby : s.gov.state = .standby := by
  rw [h.gov]; rfl

theorem pool (e : Fin 16) : s.occ.pool[e] = none := by
  rw [h.occ]; simp [Occupancy.reset]

theorem window (w : Fin 16) : s.time.windows[w] = WindowEntry.unused := by
  rw [h.windows]; simp [TimeUnit.reset]

theorem timer (n : Fin 4) : s.time.timers[n] = Timer.reset := by
  rw [h.timers]; simp [TimeUnit.reset]

/-- Only what a reset lets go on changes: the held values stand. -/
theorem of_gov {t : State} (link : t.link = s.link) (sources : t.sources = s.sources) (table : t.table = s.table)
    (occ : t.occ = s.occ) (carriages : t.carriages = s.carriages) (windows : t.time.windows = s.time.windows)
    (timers : t.time.timers = s.time.timers) (gov : t.gov.AtReset) : t.AtReset where
  link := link.trans h.link
  sources := sources.trans h.sources
  table := table.trans h.table
  occ := occ.trans h.occ
  carriages c := by rw [State.ctx, carriages]; exact h.carriages c
  windows := windows.trans h.windows
  timers := timers.trans h.timers
  gov := gov

theorem withGov {g : Governor} (gov : g.AtReset) : (withGov g s).AtReset := h.of_gov rfl rfl rfl rfl rfl rfl rfl gov

theorem setReceiver (p : Port) : (setReceiver p .idle s).AtReset := by
  refine h.of_gov ?_ (by simp) (by simp) (by simp) (by simp) (by simp) (by simp) (by rw [setReceiver_gov]; exact h.gov)
  cases p <;> simp [h.link, Link.reset]

theorem uTxStart : uTxStart s = s := by
  simp [Machine.uTxStart, h.link, Link.reset]

theorem uTxComplete : uTxComplete s = s := by
  simp [Machine.uTxComplete, h.link, Link.reset]

theorem dTxStart : dTxStart s = s := by
  simp [Machine.dTxStart, h.link, Link.reset]

theorem dTxComplete : dTxComplete s = s := by
  unfold Machine.dTxComplete
  rw [h.link]
  rfl

theorem expireTimer (n : Fin 4) : expireTimer n s = s := by
  simp only [Machine.expireTimer, h.timer n]
  rfl

theorem expireDeadline (c : Carriage) : expireDeadline c s = s := by
  simp only [Machine.expireDeadline, h.carriages c]
  rfl

theorem expireHold (e : Fin 16) : expireHold e s = s := by
  simp only [Machine.expireHold, h.pool e]

theorem endPulse (p : Fin 5) : endPulse p s = s := by
  simp [Machine.endPulse, h.pulses p]

theorem takeStop : takeStop s = s := by
  simp only [Machine.takeStop, h.standby]

theorem evalWindow (w : Fin 16) : evalWindow s w = s := by
  simp only [Machine.evalWindow, h.window w]
  rfl

theorem evalWindows : evalWindows s = s := by
  unfold Machine.evalWindows
  split
  · rfl
  · induction List.finRange 16 with
    | nil => rfl
    | cons w l ih => rw [List.foldl_cons, h.evalWindow w]; exact ih

theorem pulseTick : s.gov.pulseTick.AtReset := by
  have stays : s.gov.pulses.map (· - 1) = s.gov.pulses := Vector.ext fun i bound => by
    have zero := h.pulses ⟨i, bound⟩
    simp only [Fin.getElem_fin] at zero
    simp [zero]
  rw [Governor.AtReset, Governor.pulseTick, stays]
  exact h.gov

/-- No effect of a tick reaches a held value. -/
theorem event (a : TickEvent) : (TickEvent.take s a).AtReset := by
  cases a with
  | pulses => exact h.withGov h.pulseTick
  | stop => rw [TickEvent.take, h.takeStop]; exact h
  | timer n => rw [TickEvent.take, h.expireTimer]; exact h
  | deadline c => rw [TickEvent.take, h.expireDeadline]; exact h
  | hold e => rw [TickEvent.take, h.expireHold]; exact h
  | windows => rw [TickEvent.take, h.evalWindows]; exact h

theorem countTicks (k : Ticks) : (countTicks k s).AtReset where
  link := h.link
  sources := h.sources
  table := h.table
  occ := by
    unfold Machine.countTicks
    dsimp only
    split
    · rw [h.occ]; simp [Occupancy.reset]
    · exact h.occ
  carriages c := by
    have at_c := h.carriages c
    unfold State.ctx Machine.countTicks at *
    dsimp only
    split
    · simp only [Fin.getElem_fin, Vector.getElem_map] at at_c ⊢
      rw [at_c]; rfl
    · exact at_c
  windows := h.windows
  timers := by
    unfold Machine.countTicks
    dsimp only
    rw [h.timers]
    simp [TimeUnit.reset, Timer.count, Timer.reset]
  gov := h.gov

theorem takeTicks (k : Ticks) (assertion : Bool) : (takeTicks k assertion s).AtReset := by
  unfold Machine.takeTicks
  generalize s.orderedEvents k assertion = events
  have counted := h.countTicks k
  generalize Machine.countTicks k s = t at counted ⊢
  induction events generalizing t with
  | nil => exact counted
  | cons a events ih => exact ih _ (counted.event a)

theorem stopnLevel (b : Bool) (n : Nat) : Governor.AtReset { s.gov with stopn := b, stopnCount := n } := by
  rw [Governor.AtReset, h.gov]

theorem countBase (raw : Bool) : (countBase raw s).AtReset :=
  h.of_gov rfl rfl rfl rfl rfl rfl rfl (h.stopnLevel _ _)

theorem completePowerOn : (completePowerOn s).AtReset := by
  unfold Machine.completePowerOn
  split
  · refine h.of_gov rfl rfl rfl rfl rfl rfl rfl ?_
    rw [Governor.AtReset, h.gov]
  · exact h

theorem lineResetRelease : (lineResetRelease s).AtReset := by
  unfold Machine.lineResetRelease
  split
  · refine h.of_gov rfl rfl rfl rfl rfl rfl rfl ?_
    show Governor.AtReset { s.gov with lineHold := false }
    rw [Governor.AtReset, h.gov]
  · exact h

theorem assertStopn : (assertStopn s).AtReset := by
  unfold Machine.assertStopn
  split
  · exact h
  · have asserted := h.withGov (h.stopnLevel true 0)
    exact asserted.takeStop.symm ▸ asserted

theorem releaseStopn : (releaseStopn s).AtReset := by
  unfold Machine.releaseStopn
  split
  · exact h.withGov (h.stopnLevel false 0)
  · exact h

/-- A frame that completes reception while a reset holds the part is discarded (R159). -/
theorem completeFrame (held : s.inReset = true) (p : Port) (f : Option InFrame) : (completeFrame p f s).AtReset := by
  have held' : (Machine.setReceiver p .idle s).inReset = true := by rw [State.inReset, setReceiver_gov]; exact held
  unfold Machine.completeFrame
  simp only [held', Bool.true_or, if_true]
  exact h.setReceiver p

theorem startFrame (held : s.inReset = true) (p : Port) (run : List Byte) : (startFrame p run s).AtReset := by
  rw [Machine.startFrame, if_pos held]; exact h

theorem setStopped (held : s.inReset = true) (p : Port) (b : Bool) : (setStopped p b s).AtReset := by
  unfold Machine.setStopped
  rw [if_pos held]
  exact h

/-- No command takes a held part from its reset values. -/
theorem exec (held : s.inReset = true) {c : Instr} {t : State} (taken : exec c s = .next t) : t.AtReset := by
  have frame : ∀ p f, (Machine.completeFrame p f s).AtReset := fun p f => h.completeFrame held p f
  cases c
  case frameAborted p run => cases taken; exact h.startFrame held p run
  case startSymbol p run => cases taken; exact h.startFrame held p run
  case pauseReceived p => cases taken; exact h.setStopped held p true
  case goReceived p => cases taken; exact h.setStopped held p false
  case uTxStart => cases taken; rw [h.uTxStart]; exact h
  case uTxComplete => cases taken; rw [h.uTxComplete]; exact h
  case dTxStart => cases taken; rw [h.dTxStart]; exact h
  case dTxComplete => cases taken; rw [h.dTxComplete]; exact h
  case baseTick raw => cases taken; exact (h.completePowerOn.countBase raw).takeTicks _ _
  case tick100ms => cases taken; exact (h.of_gov (t := { s with time := { s.time with divider := 0 } }) rfl rfl rfl rfl rfl rfl rfl h.gov).takeTicks _ _
  case secondUpdate =>
    cases taken
    exact (h.of_gov (t := { s with time := { s.time with subSecond := 0 } }) rfl rfl rfl rfl rfl rfl rfl h.gov).takeTicks _ _
  case minuteUpdate =>
    cases taken
    exact (h.of_gov
      (t := { s with time := { s.time with subSecond := 0, calendar := { s.time.calendar with seconds := 0x59 } } })
      rfl rfl rfl rfl rfl rfl rfl h.gov).takeTicks _ _
  case cycleTimerExpiry n => cases taken; rw [h.expireTimer]; exact h
  case moveDeadlineExpiry c => cases taken; rw [h.expireDeadline]; exact h
  case holdExpiry e => cases taken; rw [h.expireHold]; exact h
  case alertPulseEnd p => cases taken; rw [h.endPulse]; exact h
  case stopnAssertion => cases taken; exact h.assertStopn
  case stopnRelease => cases taken; exact h.releaseStopn
  case powerOnReset => cases taken; exact atReset_powerOn s
  case lineReset => cases taken; exact atReset_lineReset s
  case lineResetRelease => cases taken; exact h.lineResetRelease
  all_goals cases taken; exact frame _ _

end State.AtReset

/-- Settles O6: a held part takes no frame, its queues, timers, holds and deadlines are empty, so nothing moves its reset
values; and only a hard reset, which writes them, puts the part in reset. -/
theorem stepKeepsHeldPart : Obligations.StepKeepsHeldPart := by
  intro s t hs h
  refine step_keeps (P := State.HeldInReset) (fun s q hs => hs) (fun c s t hs taken => ?_) hs h
  rw [heldInReset_iff] at hs ⊢
  intro held
  by_cases power : c = .powerOnReset
  · subst power; cases taken; exact atReset_powerOn s
  by_cases line : c = .lineReset
  · subst line; cases taken; exact atReset_lineReset s
  cases before : s.inReset with
  | true => exact (hs before).exec before taken
  | false =>
    rw [kept_notInReset.exec before (fun e => absurd e power) (fun e => absurd e line) taken] at held
    cases held

end Sys2Proof.Machine
end

section
/-! An induction over all commands by whole operations: where Laws/Kept.lean takes each primitive change by itself, here the
changes that the books of claims and holds need together (a forward, a hold, the end of a hold, a release with its offer, a halt
entry) are taken together. `A` is what is already known to be kept, `P` what is shown to be kept beside it. -/

namespace Sys2Proof.Machine

/-! ### States that differ outside the books -/

/-- Carriages, tables, occupancy, DQ and the governor state stand; UQ, receivers, clock, flags and outputs may differ. -/
structure Still (s t : State) : Prop where
  carriages : t.carriages = s.carriages
  table : t.table = s.table
  occ : t.occ = s.occ
  dq : t.link.dq = s.link.dq
  txD : t.link.txD = s.link.txD
  state : t.gov.state = s.gov.state

/-- Besides, no frame has left UQ. -/
structure Quiet (s t : State) : Prop extends Still s t where
  uq : s.link.uq.length ≤ t.link.uq.length

theorem Still.refl (s : State) : Still s s := ⟨rfl, rfl, rfl, rfl, rfl, rfl⟩

theorem Quiet.refl (s : State) : Quiet s s := { Still.refl s with uq := Nat.le_refl _ }

theorem Still.trans {s t u : State} (h : Still s t) (k : Still t u) : Still s u where
  carriages := k.carriages.trans h.carriages
  table := k.table.trans h.table
  occ := k.occ.trans h.occ
  dq := k.dq.trans h.dq
  txD := k.txD.trans h.txD
  state := k.state.trans h.state

theorem Still.ctx {s t : State} (h : Still s t) (c : Carriage) : t.ctx c = s.ctx c := by rw [State.ctx, h.carriages]; rfl

theorem quiet_evalPauses (s : State) : Quiet s (evalPauses s) := by
  rw [evalPauses_eq]; exact { Quiet.refl s with }

theorem quiet_pushUqMarked (f : UFrame) (b : Bool) (s : State) : Quiet s (pushUqMarked f b s) where
  carriages := evalPauses_carriages _
  table := evalPauses_table _
  occ := evalPauses_occ _
  dq := evalPauses_dq _
  txD := by rw [pushUqMarked, evalPauses_eq]
  state := by rw [pushUqMarked, evalPauses_eq]
  uq := by rw [pushUqMarked_uq]; simp

theorem quiet_raise (f : Flag) (s : State) : Quiet s (raise f s) := { Quiet.refl s with }

theorem Quiet.trans {s t u : State} (h : Quiet s t) (k : Quiet t u) : Quiet s u :=
  { h.toStill.trans k.toStill with uq := h.uq.trans k.uq }

theorem quiet_acceptReset (s : State) : Quiet s (acceptReset s) :=
  .trans (t := { s with gov := { s.gov with softPending := true } }) { Quiet.refl s with } (quiet_evalPauses _)

theorem quiet_setReceiver (p : Port) (r : Receiver) (s : State) : Quiet s (setReceiver p r s) := by
  cases p <;> exact { Quiet.refl s with }

/-! ### What admission lets through -/

/-- What the steps of the check say of a move they let through (R84 to R94): who may move, where the target lies, and by what
plan. -/
structure Admits (s : State) (h : Header) (m : Admitted) : Prop where
  governing : s.gov.state = .governing
  parked : (s.ctx h.carriage).state = .parked
  unowed : (s.ctx h.carriage).verdictOwed = false
  onFloor : s.table.onFloor m.target = true
  zone : m.zone = s.lookup m.target
  way : (m.entry = false ∧ m.zone = (s.ctx h.carriage).zone ∧ m.plan = .none) ∨
    (m.entry = true ∧ m.zone ≠ (s.ctx h.carriage).zone ∧
      ∃ level via, judgeClearance s (s.ctx h.carriage) level via m.zone = .ok m.plan)

/-- A target translated lies on the floor (R32, R33). -/
theorem onFloor_of_onFloorTarget {t : ZoneTable} {v : Int × Int} {p : Point} (h : onFloorTarget t v = some p) :
    t.onFloor p = true := by
  unfold onFloorTarget at h
  dsimp only at h
  split at h
  next passes => cases h; exact (Bool.and_eq_true_iff.1 passes).2
  next => cases h

theorem onFloor_of_translateAbs {t : ZoneTable} {x : Context} {a b : Coord} {p : Point} (h : translateAbs t x a b = some p) :
    t.onFloor p = true := onFloor_of_onFloorTarget h

theorem onFloor_of_translateRel {t : ZoneTable} {x : Context} {a b : Coord} {p : Point} (h : translateRel t x a b = some p) :
    t.onFloor p = true := by
  unfold translateRel at h
  dsimp only at h
  split at h
  · cases h
  · split at h
    · cases h
    · exact onFloor_of_onFloorTarget h

/-- Steps 8 to 12 for a target let a move through by a stay, or by an entry with a plan and a last step (R88 to R96). -/
theorem judgeTarget_cases (s : State) (x : Context) (level : Level) (speed : Speed) (via : Byte) (p : Point) :
    (∃ r v, judgeTarget s x level speed via p = .refused r v) ∨
    (∃ v clipped, s.lookup p = x.zone ∧ judgeTarget s x level speed via p =
      .forward { target := p, zone := s.lookup p, entry := false, plan := .none, speed := v, clipped }) ∨
    (∃ v clipped plan, s.lookup p ≠ x.zone ∧ judgeClearance s x level via (s.lookup p) = .ok plan ∧
      judgeTarget s x level speed via p =
        judgeRoom s { target := p, zone := s.lookup p, entry := true, plan, speed := v, clipped }) := by
  unfold judgeTarget
  dsimp only
  split
  next stay =>
    split
    next => exact .inl ⟨_, _, rfl⟩
    next => exact .inr (.inl ⟨_, _, stay, rfl⟩)
  next move =>
    split
    next => exact .inl ⟨_, _, rfl⟩
    next =>
      split
      next => exact .inl ⟨_, _, rfl⟩
      next plan cleared =>
        split
        next => exact .inl ⟨_, _, rfl⟩
        next => exact .inr (.inr ⟨_, _, _, move, cleared, rfl⟩)

/-- The check lets a move reach steps 8 to 12 only for a PARKED carriage of a GOVERNING part (R85 to R87). -/
theorem judgeMove_cases (s : State) (h : Header) (speed : Speed) (via : Byte) (target : Option Point) :
    (∃ r, judgeMove s h speed via target = .refused r 0) ∨ judgeMove s h speed via target = .edge ∨
    (∃ p, target = some p ∧ s.gov.state = .governing ∧ (s.ctx h.carriage).state = .parked ∧
      (s.ctx h.carriage).verdictOwed = false ∧
      judgeMove s h speed via target = judgeTarget s (s.ctx h.carriage) (s.effectiveLevel h) speed via p) := by
  unfold judgeMove
  dsimp only
  split
  next => exact .inl ⟨_, rfl⟩
  split
  next => exact .inl ⟨_, rfl⟩
  split
  next => exact .inl ⟨_, rfl⟩
  next standby halted =>
    have governing : s.gov.state = .governing := by
      cases state : s.gov.state with
      | governing => rfl
      | standby => exact absurd state standby
      | halted => exact absurd state halted
    split
    next => exact .inl ⟨_, rfl⟩
    next => exact .inl ⟨_, rfl⟩
    next => exact .inl ⟨_, rfl⟩
    next => exact .inl ⟨_, rfl⟩
    next parked =>
      split
      next => exact .inl ⟨_, rfl⟩
      next unowed =>
        split
        next => exact .inl ⟨_, rfl⟩
        next =>
          split
          next => exact .inr (.inl rfl)
          next p => exact .inr (.inr ⟨p, rfl, governing, parked, by simpa using unowed, rfl⟩)

/-- Step 12 forwards where the target can be entered, and else refuses or holds (R96). -/
theorem judgeRoom_cases (s : State) (m : Admitted) :
    (judgeRoom s m = .forward m ∧ s.hasRoom m.zone = true ∧ s.waitList m.zone = []) ∨
    (∃ r, judgeRoom s m = .refused r 0) ∨
    (∃ z e, judgeRoom s m = .hold m z e ∧ m.zone = z.castSucc ∧ s.freelyEntered m.zone = false ∧
      s.occ.lowestFree = some e) := by
  unfold judgeRoom
  split
  next free =>
    simp only [State.freelyEntered, Bool.and_eq_true, List.isEmpty_iff] at free
    exact .inl ⟨rfl, free.1, free.2⟩
  next full =>
    split
    next inTable =>
      split
      next => exact .inr (.inl ⟨_, rfl⟩)
      next =>
        split
        next => exact .inr (.inl ⟨_, rfl⟩)
        next e lowest => exact .inr (.inr ⟨_, e, rfl, rfl, by simpa using full, lowest⟩)
    next floor =>
      refine .inl ⟨rfl, ?_, ?_⟩
      · simp [State.hasRoom, State.placeAt, State.descriptor, floor, floorPlace]
      · simp [State.waitList, floor]

/-- The lowest free entry is free. -/
theorem pool_of_lowestFree {o : Occupancy} {e : Fin 16} (h : o.lowestFree = some e) : o.pool[e] = none := by
  have found := List.find?_some h
  simpa using found

/-- A move that is forwarded passed the check, and an entry finds room and no waiters. -/
theorem admits_of_forward {s : State} {h : Header} {speed : Speed} {via : Byte} {target : Option Point} {m : Admitted}
    (floor : ∀ p, target = some p → s.table.onFloor p = true) (judged : judgeMove s h speed via target = .forward m) :
    Admits s h m ∧ (m.entry = true → s.hasRoom m.zone = true ∧ s.waitList m.zone = []) := by
  rcases judgeMove_cases s h speed via target with ⟨r, eq⟩ | eq | ⟨p, some, governing, parked, unowed, eq⟩
  · rw [eq] at judged; cases judged
  · rw [eq] at judged; cases judged
  rw [eq] at judged
  rcases judgeTarget_cases s (s.ctx h.carriage) (s.effectiveLevel h) speed via p with
    ⟨r, v, eq⟩ | ⟨v, clipped, stay, eq⟩ | ⟨v, clipped, plan, move, cleared, eq⟩
  · rw [eq] at judged; cases judged
  · rw [eq] at judged
    cases judged
    exact ⟨⟨governing, parked, unowed, floor p some, rfl, .inl ⟨rfl, stay, rfl⟩⟩, nofun⟩
  · rw [eq] at judged
    rcases judgeRoom_cases s { target := p, zone := s.lookup p, entry := true, plan, speed := v, clipped } with
      ⟨eq, room⟩ | ⟨r, eq⟩ | ⟨z, e, eq, -⟩
    · rw [eq] at judged
      cases judged
      exact ⟨⟨governing, parked, unowed, floor p some, rfl, .inr ⟨rfl, move, _, _, cleared⟩⟩, fun _ => room⟩
    · rw [eq] at judged; cases judged
    · rw [eq] at judged; cases judged

/-- A move that is held passed the check as an entry move; its zone cannot be entered, and its pool entry is free. -/
theorem admits_of_hold {s : State} {h : Header} {speed : Speed} {via : Byte} {target : Option Point} {m : Admitted}
    {z : ZoneIndex} {e : Fin 16} (floor : ∀ p, target = some p → s.table.onFloor p = true)
    (judged : judgeMove s h speed via target = .hold m z e) :
    Admits s h m ∧ m.entry = true ∧ m.zone = z.castSucc ∧ s.freelyEntered m.zone = false ∧ s.occ.pool[e] = none := by
  rcases judgeMove_cases s h speed via target with ⟨r, eq⟩ | eq | ⟨p, some, governing, parked, unowed, eq⟩
  · rw [eq] at judged; cases judged
  · rw [eq] at judged; cases judged
  rw [eq] at judged
  rcases judgeTarget_cases s (s.ctx h.carriage) (s.effectiveLevel h) speed via p with
    ⟨r, v, eq⟩ | ⟨v, clipped, stay, eq⟩ | ⟨v, clipped, plan, move, cleared, eq⟩
  · rw [eq] at judged; cases judged
  · rw [eq] at judged; cases judged
  · rw [eq] at judged
    rcases judgeRoom_cases s { target := p, zone := s.lookup p, entry := true, plan, speed := v, clipped } with
      ⟨eq, -⟩ | ⟨r, eq⟩ | ⟨z', e', eq, zone, full, lowest⟩
    · rw [eq] at judged; cases judged
    · rw [eq] at judged; cases judged
    · rw [eq] at judged
      cases judged
      exact ⟨⟨governing, parked, unowed, floor p some, rfl, .inr ⟨rfl, move, _, _, cleared⟩⟩, rfl, zone, full,
        pool_of_lowestFree lowest⟩

/-! ### The whole operations -/

/-- A forward without the CLIPPED verdict that may follow it (R97). -/
def forwardMove (h : Header) (m : Admitted) (s : State) : State := forward h { m with clipped := false } s

theorem forward_eq (h : Header) (m : Admitted) (s : State) : forward h m s =
    if m.clipped then pushUq (.verdict (s.effectiveHeader h) .clipped .none (s.adjusted h) m.speed) (forwardMove h m s)
    else forwardMove h m s := by
  unfold forwardMove forward
  cases m.clipped <;> rfl

/-- A hold without its HELD verdict (R98, R109). -/
def holdMove (h : Header) (m : Admitted) (z : ZoneIndex) (e : Fin 16) (s : State) : State :=
  takeEntry e (s.holdEntry h m z)
    (modifyCtx h.carriage (fun x => { x with state := .held, holdRef := some e }) (setWaits z (s.occ.waits[z] ++ [e]) s))

theorem hold_eq (h : Header) (m : Admitted) (z : ZoneIndex) (e : Fin 16) (s : State) :
    hold h m z e s = answer h .held .none m.speed (holdMove h m z e s) := rfl

/-- A carriage whose move has ended in a fault: the record stays, without a deadline (R69, R73). -/
def Context.faultedBy (x : Context) (r : InFlight) (k : FaultCause) (reported : Option Point) : Context :=
  { x with state := .faulted, faultCause := some k, reported, inFlight := some { r with deadline := none } }

/-- The part after any reset, as far as the books go: nobody enrolled, nothing held or queued, STANDBY. -/
structure Blank (s : State) : Prop where
  carriages : s.carriages = Vector.replicate 32 .unenrolled
  occ : s.occ = Occupancy.reset
  dq : s.link.dq = []
  txD : s.link.txD = .idle
  state : s.gov.state = .standby

/-- Every whole operation keeps `P`, where `A` holds. -/
structure KeptWhole (A P : State → Prop) : Prop where
  quiet : ∀ s t, Quiet s t → A s → P s → P t
  fed : ∀ s t, Still s t → A s → P s → P (feed t)
  toDq : ∀ s f, f.isDriveMove = false → A s → P s → P { s with link := { s.link with dq := s.link.dq ++ [f] } }
  tx : ∀ s x, (s.link.txD = .frame → s.link.dq = []) → A s → P s → P { s with link := { s.link with txD := x } }
  sent : ∀ s f rest, s.link.txD = .frame → s.link.dq = f :: rest → A s → P s →
    P (f.whenSent { s with link := { s.link with txD := .idle, dq := rest }, wireD := s.wireD ++ [.frame f.bytes] })
  reexamine : ∀ s z, A s → P s → P (reexamine z s)
  endHold : ∀ s v r e, A s → P s → P (endHold v r e s)
  forward : ∀ s h m, Admits s h m → (m.entry = true → s.hasRoom m.zone = true ∧ s.waitList m.zone = []) → A s → P s →
    P (forwardMove h m s)
  hold : ∀ s h m z e, Admits s h m → m.entry = true → m.zone = z.castSucc → s.freelyEntered m.zone = false →
    s.occ.pool[e] = none → A s → P s → P (holdMove h m z e s)
  commit : ∀ s c r p, (s.ctx c).state = .moving → (s.ctx c).inFlight = some r → r.sent = true → r.entry = true →
    s.table.onFloor p = true → s.lookup p = r.targetZone → A s → P s →
    P (releaseClaim r.originZone (setCtx c ((s.ctx c).committed r p (s.placeAt r.targetZone).guardLevel) s))
  undo : ∀ s c r p, (s.ctx c).state = .moving → (s.ctx c).inFlight = some r → r.sent = true → r.entry = true →
    s.table.onFloor p = true → s.lookup p = r.originZone → A s → P s →
    P (releaseClaim r.targetZone (setCtx c ((s.ctx c).restedAt p) s))
  stay : ∀ s c r p, (s.ctx c).state = .moving → (s.ctx c).inFlight = some r → r.sent = true → r.entry = false →
    s.table.onFloor p = true → s.lookup p = (s.ctx c).zone → A s → P s → P (setCtx c ((s.ctx c).restedAt p) s)
  fault : ∀ s c r k q, (s.ctx c).state = .moving → (s.ctx c).inFlight = some r → r.sent = true → (k = .stray → q.isSome) →
    A s → P s → P (setCtx c ((s.ctx c).faultedBy r k q) s)
  late : ∀ s c p, (s.ctx c).state = .faulted → A s → P s → P (setCtx c { s.ctx c with reported := some p } s)
  setUp : ∀ s c en sc tu off tag, (s.ctx c).enrolled = true → setupInRange en sc tu tag = true → A s → P s →
    P (setCtx c ((s.ctx c).setUp en sc tu off tag) s)
  enroll : ∀ s c p tag limit, (s.ctx c).state = .unenrolled → s.table.onFloor p = true → limit ≤ 255 →
    s.hasRoom (s.lookup p) = true → s.waitList (s.lookup p) = [] → A s → P s →
    P (grantClaim (s.lookup p) (setCtx c (.enrolledAt p (s.lookup p) tag limit) s))
  withdraw : ∀ s c, (s.ctx c).state = .parked → (s.ctx c).verdictOwed = false → A s → P s →
    P (setCtx c .unenrolled (releaseClaim (s.ctx c).zone s))
  release : ∀ s c p, (s.ctx c).state = .faulted → s.table.onFloor p = true →
    ((s.ctx c).claimedZones.contains (s.lookup p) || s.freelyEntered (s.lookup p)) = true → A s → P s →
    P ((s.ctx c).claimedZones.foldl (fun s z => offer z s) (setCtx c ((s.ctx c).releasedAt p (s.lookup p))
      (grantClaim (s.lookup p) ((s.ctx c).claimedZones.foldl (fun s z => dropClaim z s) s))))
  haltEntry : ∀ s, A s → P s → P (haltEntry s)
  govern : ∀ s, A s → P s → P (withGov { s.gov with state := .governing } s)
  standby : ∀ s, s.anyMoving = false → A s → P s →
    P (let t := (List.finRange 64).foldl (withdrawZone .end_) s; withGov { t.gov with state := .standby } t)
  floor : ∀ s b, s.gov.state = .standby → s.floorFits b = true → A s → P s → P (withFloor b s)
  descriptor : ∀ s (i : ZoneIndex) d, s.descriptorInUse i = false →
    s.lookupsStand (s.table.descriptors.set i.val d) = true → A s → P s → P (withDescriptor i d s)
  countTicks : ∀ s k, A s → P s → P (countTicks k s)
  blank : ∀ s, Blank s → P s

/-- Nothing is assumed. -/
abbrev Always : State → Prop := fun _ => True

/-- What is kept by itself and what is kept beside it are kept together. -/
theorem KeptWhole.and {A P : State → Prop} (a : KeptWhole Always A) (p : KeptWhole A P) : KeptWhole Always fun s => A s ∧ P s where
  quiet s t q _ h := ⟨a.quiet s t q trivial h.1, p.quiet s t q h.1 h.2⟩
  fed s t q _ h := ⟨a.fed s t q trivial h.1, p.fed s t q h.1 h.2⟩
  toDq s f n _ h := ⟨a.toDq s f n trivial h.1, p.toDq s f n h.1 h.2⟩
  tx s x n _ h := ⟨a.tx s x n trivial h.1, p.tx s x n h.1 h.2⟩
  sent s f r x d _ h := ⟨a.sent s f r x d trivial h.1, p.sent s f r x d h.1 h.2⟩
  reexamine s z _ h := ⟨a.reexamine s z trivial h.1, p.reexamine s z h.1 h.2⟩
  endHold s v r e _ h := ⟨a.endHold s v r e trivial h.1, p.endHold s v r e h.1 h.2⟩
  forward s hd m ad ro _ h := ⟨a.forward s hd m ad ro trivial h.1, p.forward s hd m ad ro h.1 h.2⟩
  hold s hd m z e ad en zo fu po _ h := ⟨a.hold s hd m z e ad en zo fu po trivial h.1, p.hold s hd m z e ad en zo fu po h.1 h.2⟩
  commit s c r q mo fl se en fo lo _ h := ⟨a.commit s c r q mo fl se en fo lo trivial h.1, p.commit s c r q mo fl se en fo lo h.1 h.2⟩
  undo s c r q mo fl se en fo lo _ h := ⟨a.undo s c r q mo fl se en fo lo trivial h.1, p.undo s c r q mo fl se en fo lo h.1 h.2⟩
  stay s c r q mo fl se en fo lo _ h := ⟨a.stay s c r q mo fl se en fo lo trivial h.1, p.stay s c r q mo fl se en fo lo h.1 h.2⟩
  fault s c r k q mo fl se st _ h := ⟨a.fault s c r k q mo fl se st trivial h.1, p.fault s c r k q mo fl se st h.1 h.2⟩
  late s c q fa _ h := ⟨a.late s c q fa trivial h.1, p.late s c q fa h.1 h.2⟩
  setUp s c en sc tu off tag el ra _ h := ⟨a.setUp s c en sc tu off tag el ra trivial h.1, p.setUp s c en sc tu off tag el ra h.1 h.2⟩
  enroll s c q tag li un fo le ro wa _ h := ⟨a.enroll s c q tag li un fo le ro wa trivial h.1, p.enroll s c q tag li un fo le ro wa h.1 h.2⟩
  withdraw s c pa ow _ h := ⟨a.withdraw s c pa ow trivial h.1, p.withdraw s c pa ow h.1 h.2⟩
  release s c q fa fo fr _ h := ⟨a.release s c q fa fo fr trivial h.1, p.release s c q fa fo fr h.1 h.2⟩
  haltEntry s _ h := ⟨a.haltEntry s trivial h.1, p.haltEntry s h.1 h.2⟩
  govern s _ h := ⟨a.govern s trivial h.1, p.govern s h.1 h.2⟩
  standby s mo _ h := ⟨a.standby s mo trivial h.1, p.standby s mo h.1 h.2⟩
  floor s b st fi _ h := ⟨a.floor s b st fi trivial h.1, p.floor s b st fi h.1 h.2⟩
  descriptor s i d us lo _ h := ⟨a.descriptor s i d us lo trivial h.1, p.descriptor s i d us lo h.1 h.2⟩
  countTicks s k _ h := ⟨a.countTicks s k trivial h.1, p.countTicks s k h.1 h.2⟩
  blank s b := ⟨a.blank s b, p.blank s b⟩

end Sys2Proof.Machine
end

section
/-! The induction by whole operations: each command is a run of them. -/

namespace Sys2Proof.Machine

/-! ### Events and requests -/

namespace KeptWhole

variable {P : State → Prop} (k : KeptWhole Always P)
include k

theorem ofQuiet {s t : State} (q : Quiet s t) (hs : P s) : P t := k.quiet s t q trivial hs

omit k in
theorem foldl {α : Type} {f : State → α → State} (one : ∀ s a, P s → P (f s a)) (l : List α) {s : State} (hs : P s) :
    P (l.foldl f s) := by
  induction l generalizing s with
  | nil => exact hs
  | cons a l ih => exact ih (one s a hs)

theorem servePending {s : State} (hs : P s) : P (servePending s) :=
  KeptWhole.foldl (fun s z hs => by
    split
    · exact k.reexamine s z trivial hs
    · exact hs) _ hs

theorem withdrawZone (r : Reason) (z : ZoneIndex) {s : State} (hs : P s) : P (withdrawZone r s z) :=
  KeptWhole.foldl (fun s e hs => k.endHold s _ r e trivial hs) _ hs

theorem raise (f : Flag) {s : State} (hs : P s) : P (raise f s) := k.ofQuiet (quiet_raise f s) hs

theorem cause (c : Cause) {s : State} (hs : P s) : P (takeCause c s) := by
  rcases takeCause_cases c s with eq | ⟨-, eq⟩ <;> rw [eq]
  · exact k.raise _ hs
  · exact k.haltEntry _ trivial (k.raise _ hs)

theorem stop {s : State} (hs : P s) : P (takeStop s) := by
  unfold takeStop
  split
  · exact hs
  · exact k.haltEntry _ trivial (k.raise _ hs)
  · exact k.raise _ hs

theorem toUq (f : UFrame) {s : State} (hs : P s) : P (pushUq f s) := k.ofQuiet (quiet_pushUqMarked f false s) hs

theorem pushDq {f : DFrame} (other : f.isDriveMove = false) {s : State} (hs : P s) : P (pushDq f s) :=
  k.ofQuiet (quiet_evalPauses _) (k.toDq s f other trivial hs)

theorem changeWindow (w : Fin 16) (e : WindowEntry) {s : State} (hs : P s) : P (changeWindow w e s) := by
  have written : P (setWindow w e s) := k.ofQuiet { Quiet.refl s with } hs
  unfold Machine.changeWindow
  dsimp only
  split
  · exact written
  · split
    · exact k.raise _ written
    · exact KeptWhole.foldl (fun _ z hs => k.withdrawZone _ z hs) _ (k.raise _ written)

theorem expireTimer (n : Fin 4) {s : State} (hs : P s) : P (expireTimer n s) := by
  unfold Machine.expireTimer
  dsimp only
  split
  · have loaded : P (setTimer n { s.time.timers[n] with counter := s.time.timers[n].preset } s) :=
      k.ofQuiet { Quiet.refl s with } hs
    unfold timerAction
    split
    · exact k.raise _ loaded
    · split
      · exact k.pushDq rfl loaded
      · exact loaded
  · exact hs

theorem expireDeadline (c : Carriage) {s : State} (hs : P s) : P (expireDeadline c s) := by
  unfold Machine.expireDeadline
  dsimp only
  split
  next r record =>
    split
    next due =>
      simp only [Bool.and_eq_true, decide_eq_true_eq] at due
      obtain ⟨⟨moving, sent⟩, -⟩ := due
      exact k.cause _ (k.fault s c r .timeout none moving record sent nofun trivial hs)
    next => exact hs
  next => exact hs

theorem expireHold (e : Fin 16) {s : State} (hs : P s) : P (expireHold e s) := by
  unfold Machine.expireHold
  split
  · split
    · exact k.endHold _ _ _ _ trivial hs
    · exact hs
  · exact hs

theorem evalWindows {s : State} (hs : P s) : P (evalWindows s) := by
  unfold Machine.evalWindows
  split
  · exact hs
  · refine KeptWhole.foldl (fun s w hs => ?_) _ hs
    unfold evalWindow
    dsimp only
    split
    · exact k.changeWindow _ _ hs
    · exact hs

theorem event (a : TickEvent) {s : State} (hs : P s) : P (TickEvent.take s a) := by
  cases a with
  | pulses => exact k.ofQuiet { Quiet.refl s with } hs
  | stop => exact k.stop hs
  | timer n => exact k.expireTimer n hs
  | deadline c => exact k.expireDeadline c hs
  | hold e => exact k.expireHold e hs
  | windows => exact k.evalWindows hs

theorem takeTicks (t : Ticks) (assertion : Bool) {s : State} (hs : P s) : P (takeTicks t assertion s) :=
  KeptWhole.foldl (fun _ a hs => k.event a hs) _ (k.countTicks s t trivial hs)

/-- The entry to GOVERNING, after the flags are cleared (R145, R147). -/
theorem enterGoverning (mask : BitVec 12) {s : State} (hs : P s) :
    P (enterGoverning { s with gov := s.gov.clearFlags mask }) := by
  have cleared : P { s with gov := s.gov.clearFlags mask } := k.ofQuiet { Quiet.refl s with } hs
  exact k.servePending (k.govern _ trivial cleared)

/-- What a request's owner does. -/
theorem request (r : Request) (ops : List Byte) {s : State} (hs : P s) : P (r.run ops s).state := by
  have quiet : ∀ {t : State}, Quiet s t → P t := fun q => k.ofQuiet q hs
  cases r with
  | readStatus => exact hs
  | readAlert => exact hs
  | readFloor => exact hs
  | readTime => exact hs
  | reset => exact hs
  | clearFlags => exact quiet { Quiet.refl s with }
  | readCause => exact quiet { Quiet.refl s with }
  | lock => exact quiet { Quiet.refl s with }
  | setAlert =>
    simp only [Request.run, reqSetAlert]
    repeat' split
    all_goals exact quiet { Quiet.refl s with }
  | start =>
    simp only [Request.run, reqStart]
    split
    · exact hs
    · simp only [Answer.ok]
      exact k.enterGoverning 0xFFF hs
  | stop =>
    simp only [Request.run, reqStop]
    split
    · exact hs
    · exact k.stop hs
  | resume =>
    simp only [Request.run, reqResume]
    split
    · exact hs
    · simp only [Answer.ok]
      exact k.enterGoverning haltCauseMask hs
  | end_ =>
    simp only [Request.run, reqEnd]
    split
    next => exact hs
    split
    next => exact hs
    next idle => exact k.standby s (by simpa using idle) trivial hs
  | setFloor =>
    simp only [Request.run, reqSetFloor]
    split
    next => exact hs
    split
    next => exact hs
    next state =>
      split
      next => exact hs
      split
      next => exact hs
      next fits => exact k.floor s _ (by simpa using state) (by simpa using fits) trivial hs
  | writeZone =>
    simp only [Request.run, reqWriteZone]
    split
    next => exact hs
    split
    next => exact hs
    split
    next => exact hs
    split
    next => exact hs
    next free =>
      simp only [Bool.or_eq_true, Bool.not_eq_true', not_or, Bool.not_eq_true, Bool.not_eq_false] at free
      exact k.descriptor _ _ _ free.1 free.2 trivial hs
  | readZone => simp only [Request.run, reqReadZone]; split <;> exact hs
  | writeSource =>
    simp only [Request.run, reqWriteSource]
    repeat' split
    all_goals exact quiet { Quiet.refl s with }
  | readSource => simp only [Request.run, reqReadSource]; split <;> exact hs
  | enroll =>
    simp only [Request.run, reqEnroll]
    split
    next => exact hs
    next c _ =>
      split
      next => exact hs
      next absent =>
        split
        next => exact hs
        split
        next => exact hs
        next floor =>
          split
          next => exact hs
          split
          next => exact hs
          next free =>
            simp only [State.freelyEntered, Bool.not_eq_false, Bool.and_eq_true, List.isEmpty_iff] at free
            have unenrolled : (s.ctx c).state = .unenrolled := by simpa [Context.enrolled] using absent
            have limit : (byteAt ops 8).toNat ≤ 255 := Nat.le_of_lt_succ (byteAt ops 8).isLt
            exact k.enroll s c _ _ _ unenrolled (by simpa using floor) limit free.1 free.2 trivial hs
  | withdrawCarriage =>
    simp only [Request.run, reqWithdraw]
    split
    next => exact hs
    split
    next ready =>
      simp only [Bool.and_eq_true, decide_eq_true_eq, Bool.not_eq_true'] at ready
      exact k.withdraw s _ ready.1 ready.2 trivial hs
    next => exact hs
  | releaseCarriage =>
    simp only [Request.run, reqRelease]
    split
    next => exact hs
    split
    next => exact hs
    next faulted =>
      split
      next => exact hs
      next floor =>
        split
        next => exact hs
        next free =>
          exact k.release s _ _ (by simpa using faulted) (by simpa using floor)
            (by simpa only [Bool.not_eq_true', Bool.not_eq_false] using free) trivial hs
  | readCarriage => 
    simp only [Request.run, reqReadCarriage]
    split
    · exact hs
    · split
      · exact hs
      · split <;> exact hs
  | findTag => simp only [Request.run, reqFindTag]; split <;> exact hs
  | readWaitlist => simp only [Request.run, reqReadWaitlist]; split <;> exact hs
  | readOccupancy => simp only [Request.run, reqReadOccupancy]; split <;> exact hs
  | setTime => simp only [Request.run, reqSetTime]; split <;> exact quiet { Quiet.refl s with }
  | writeWindow =>
    simp only [Request.run, reqWriteWindow]
    split
    next => exact hs
    next unlocked =>
      split
      next => exact hs
      next w named =>
        split
        next => exact hs
        next => exact k.changeWindow w .unused hs
        next =>
          split
          next => exact hs
          next e written => exact k.changeWindow w e hs
  | readWindow => simp only [Request.run, reqReadWindow]; split <;> exact hs
  | writeTimer =>
    simp only [Request.run, reqWriteTimer]
    repeat' split
    all_goals exact quiet { Quiet.refl s with }
  | readTimer => simp only [Request.run, reqReadTimer]; split <;> exact hs

/-! ### Frames -/

theorem dispose (h : Header) (speed : Speed) (via : Byte) {target : Option Point} {s : State}
    (floor : ∀ p, target = some p → s.table.onFloor p = true) (hs : P s) :
    P (dispose h (judgeMove s h speed via target) s) := by
  generalize judged : judgeMove s h speed via target = o
  cases o with
  | refused r v => exact k.toUq _ hs
  | edge => exact k.cause _ (k.toUq _ hs)
  | forward m =>
    obtain ⟨admits, room⟩ := admits_of_forward floor judged
    have forwarded := k.forward s h m admits room trivial hs
    rw [Machine.dispose, forward_eq]
    split
    · exact k.toUq _ forwarded
    · exact forwarded
  | hold m z e =>
    obtain ⟨admits, entry, zone, full, free⟩ := admits_of_hold floor judged
    rw [Machine.dispose, hold_eq]
    exact k.toUq _ (k.hold s h m z e admits entry zone full free trivial hs)

theorem carriageDone (h : Header) (p : Point) {s : State} (hs : P s) : P (carriageDone h p s) := by
  unfold Machine.carriageDone
  split
  next r matching =>
    obtain ⟨record, sent⟩ := Option.filter_eq_some_iff.1 matching
    unfold Context.movingRecord at record
    split at record
    next moving =>
      obtain ⟨flight, -⟩ := Option.filter_eq_some_iff.1 record
      unfold resolveDone resolution
      dsimp only
      split
      next res =>
        split at res
        next => cases res
        next floor =>
          split at res
          next commits =>
            simp only [Bool.and_eq_true, decide_eq_true_eq] at commits
            exact k.commit s _ r p moving flight sent commits.1 (by simpa using floor) commits.2 trivial hs
          next =>
            split at res
            next => cases res
            next => split at res <;> cases res
      next res =>
        split at res
        next => cases res
        next floor =>
          split at res
          next => cases res
          split at res
          next undoes =>
            simp only [Bool.and_eq_true, decide_eq_true_eq] at undoes
            exact k.undo s _ r p moving flight sent undoes.1 (by simpa using floor) undoes.2 trivial hs
          next => split at res <;> cases res
      next res =>
        split at res
        next => cases res
        next floor =>
          split at res
          next => cases res
          split at res
          next => cases res
          split at res
          next stays =>
            simp only [Bool.and_eq_true, decide_eq_true_eq, Bool.not_eq_true'] at stays
            exact k.stay s _ r p moving flight sent stays.1 (by simpa using floor) stays.2 trivial hs
          next => cases res
      next => exact k.cause _ (k.fault s _ r .stray (some p) moving flight sent (fun _ => rfl) trivial hs)
    next => cases record
  next =>
    split
    next late =>
      have faulted : (s.ctx h.carriage).state = .faulted := by
        simp only [Context.lateDone, Bool.and_eq_true, decide_eq_true_eq] at late
        exact late.1.1
      exact k.late s _ p faulted trivial hs
    next => exact hs

theorem stopWithdrawal (c : Carriage) {s : State} (hs : P s) : P (stopWithdrawal c s) := by
  unfold Machine.stopWithdrawal
  split
  · split
    · exact k.endHold _ _ _ _ trivial hs
    · exact hs
  · exact hs

theorem mgmtReq (h : Header) (code rid : Byte) (ops : List Byte) {s : State} (hs : P s) : P (takeMgmtReq h code rid ops s) := by
  have answered : ∀ (c : Byte) (a : Answer), P a.state → P (respond h c rid a false) := fun c a ha => k.toUq _ ha
  unfold takeMgmtReq
  split
  next => exact answered _ _ hs
  split
  next => exact answered _ _ hs
  next r _ =>
    split
    next => exact answered _ _ hs
    split
    next =>
      have placed : P (respond h code rid (r.run ops s) true) := k.ofQuiet (quiet_pushUqMarked _ true _) (k.request r ops hs)
      exact k.ofQuiet (quiet_acceptReset _) placed
    next => exact answered _ _ (k.request r ops hs)

theorem handOn (p : Port) (f : InFrame) {s : State} (hs : P s) : P (handOn p f s) := by
  cases f with
  | moveAbs h x y speed via => exact k.dispose h speed via (fun _ eq => onFloor_of_translateAbs eq) hs
  | moveRel h x y speed via => exact k.dispose h speed via (fun _ eq => onFloor_of_translateRel eq) hs
  | setup h enables scale turn offset tag =>
    show P (takeSetup h enables scale turn offset tag s)
    unfold takeSetup
    split
    next => exact k.toUq _ hs
    split
    next => exact k.toUq _ hs
    next enrolled =>
      split
      next => exact k.toUq _ hs
      next inRange => exact k.setUp s _ _ _ _ _ _ (by simpa using enrolled) (by simpa using inRange) trivial hs
  | stopCarriage h =>
    show P (takeStopCarriage h s)
    unfold takeStopCarriage
    split
    next => exact k.toUq _ hs
    split
    next => exact k.toUq _ hs
    next => exact k.pushDq rfl (k.stopWithdrawal _ hs)
  | transit h payload =>
    cases p with
    | d => exact k.toUq _ hs
    | u =>
      show P (takeTransitU h payload s)
      unfold takeTransitU
      split
      · exact k.pushDq rfl hs
      · exact k.toUq _ hs
  | mgmtReq h request rid ops => exact k.mgmtReq _ _ _ _ hs
  | done h at_ stopped => exact k.toUq _ (k.carriageDone h at_ hs)
  | contact h at_ => exact k.toUq _ (k.cause .contact hs)

theorem completeFrame (p : Port) (f : Option InFrame) {s : State} (hs : P s) : P (completeFrame p f s) := by
  have idle : P (setReceiver p .idle s) := k.ofQuiet (quiet_setReceiver p _ s) hs
  unfold Machine.completeFrame
  dsimp only
  split
  next => exact idle
  split
  next => exact k.raise _ idle
  next =>
    unfold admitFrame
    split
    · exact k.handOn _ _ idle
    · exact k.raise _ idle

theorem startFrame (p : Port) (run : List Byte) {s : State} (hs : P s) : P (startFrame p run s) := by
  have begun : ∀ r, P (setReceiver p r s) := fun r => k.ofQuiet (quiet_setReceiver p r s) hs
  unfold Machine.startFrame
  split
  · exact hs
  · dsimp only
    split
    · exact k.raise _ (begun _)
    · exact begun _

theorem setStopped (p : Port) (b : Bool) {s : State} (hs : P s) : P (setStopped p b s) := by
  unfold Machine.setStopped
  split
  · exact hs
  · cases p <;> exact k.ofQuiet { Quiet.refl s with } hs

/-! ### The transmitters -/

theorem uTxStart {s : State} (hs : P s) : P (uTxStart s) := by
  unfold Machine.uTxStart
  split
  · exact k.ofQuiet { Quiet.refl s with } hs
  · exact hs

theorem uTxComplete {s : State} (hs : P s) : P (uTxComplete s) := by
  unfold Machine.uTxComplete
  split
  · split
    next => exact k.ofQuiet { Quiet.refl s with } hs
    next e rest _ =>
      dsimp only
      split
      next => exact k.blank _ ⟨rfl, rfl, rfl, rfl, rfl⟩
      next =>
        have left : Still s { s with
            link := { s.link with sendingU := false, uq := rest }, wireU := s.wireU ++ [.frame e.frame.bytes] } :=
          { Still.refl s with }
        exact k.servePending (k.fed s _ (left.trans (quiet_evalPauses _).toStill) trivial hs)
  · exact hs

theorem dTxStart {s : State} (hs : P s) : P (dTxStart s) := by
  unfold Machine.dTxStart
  split
  next idle =>
    simp only [Bool.and_eq_true, decide_eq_true_eq] at idle
    have sending : ∀ x, P { s with link := { s.link with txD := x } } := fun x =>
      k.tx s x (fun frame => by rw [idle.1] at frame; cases frame) trivial hs
    split
    · exact k.ofQuiet { Quiet.refl { s with link := { s.link with txD := .haltAll } } with } (sending .haltAll)
    · split
      · exact hs
      · exact sending .frame
  next => exact hs

theorem dTxComplete {s : State} (hs : P s) : P (dTxComplete s) := by
  unfold Machine.dTxComplete
  split
  next => exact hs
  next haltAll =>
    exact k.ofQuiet { Quiet.refl { s with link := { s.link with txD := .idle } } with }
      (k.tx s .idle (fun frame => by rw [haltAll] at frame; cases frame) trivial hs)
  next frame =>
    split
    next none => exact k.tx s .idle (fun _ => none) trivial hs
    next f rest some => exact k.servePending (k.ofQuiet (quiet_evalPauses _) (k.sent s f rest frame some trivial hs))

/-! ### Commands and steps -/

/-- Every command keeps the property. -/
theorem exec {c : Instr} {s t : State} (hs : P s) (taken : exec c s = .next t) : P t := by
  have frame : ∀ p f, P (Machine.completeFrame p f s) := fun p f => k.completeFrame p f hs
  have quiet : ∀ {t : State}, Quiet s t → P t := fun q => k.ofQuiet q hs
  cases c
  case frameAborted p run => cases taken; exact k.startFrame p run hs
  case startSymbol p run => cases taken; exact k.startFrame p run hs
  case pauseReceived p => cases taken; exact k.setStopped p true hs
  case goReceived p => cases taken; exact k.setStopped p false hs
  case uTxStart => cases taken; exact k.uTxStart hs
  case uTxComplete => cases taken; exact k.uTxComplete hs
  case dTxStart => cases taken; exact k.dTxStart hs
  case dTxComplete => cases taken; exact k.dTxComplete hs
  case baseTick raw =>
    cases taken
    have completed : Quiet s (completePowerOn s) := by
      unfold completePowerOn; split <;> exact { Quiet.refl s with }
    exact k.takeTicks _ _ (k.ofQuiet { Quiet.refl (completePowerOn s) with } (quiet completed))
  case tick100ms => cases taken; exact k.takeTicks _ _ (quiet { Quiet.refl s with })
  case secondUpdate => cases taken; exact k.takeTicks _ _ (quiet { Quiet.refl s with })
  case minuteUpdate => cases taken; exact k.takeTicks _ _ (quiet { Quiet.refl s with })
  case cycleTimerExpiry n => cases taken; exact k.expireTimer n hs
  case moveDeadlineExpiry c => cases taken; exact k.expireDeadline c hs
  case holdExpiry e => cases taken; exact k.expireHold e hs
  case alertPulseEnd p =>
    cases taken
    unfold endPulse
    split
    · exact quiet { Quiet.refl s with }
    · exact hs
  case stopnAssertion =>
    cases taken
    unfold assertStopn
    split
    · exact hs
    · exact k.stop (quiet { Quiet.refl s with })
  case stopnRelease =>
    cases taken
    unfold releaseStopn
    split
    · exact quiet { Quiet.refl s with }
    · exact hs
  case powerOnReset => cases taken; exact k.blank _ ⟨rfl, rfl, rfl, rfl, rfl⟩
  case lineReset => cases taken; exact k.blank _ ⟨rfl, rfl, rfl, rfl, rfl⟩
  case lineResetRelease =>
    cases taken
    unfold Machine.lineResetRelease
    split
    · exact quiet { Quiet.refl s with }
    · exact hs
  all_goals cases taken; exact frame _ _

/-- Every step keeps the property. -/
theorem step {s t : State} (hs : P s) (h : step s = .next t) : P t :=
  step_keeps (fun s _ hs => k.ofQuiet { Quiet.refl s with } hs) (fun _ _ _ hs taken => k.exec hs taken) hs h

end KeptWhole

end Sys2Proof.Machine
end

section
/-! The operations on the books, one context at a time: what a hold, a forward, a pass, a resolution or a request changes of the
accounts of carriages, holds and claims, stripped of queues, verdicts and flags. A law that follows these changes is kept by
every whole operation. -/

namespace Sys2Proof.Machine

/-! ### States with the same accounts -/

/-- What an in-flight record says of the move itself. -/
def InFlight.plan (r : InFlight) : Point × Zone × Zone × Bool × Nat × Option StackRecord :=
  (r.target, r.targetZone, r.originZone, r.entry, r.pops, r.push)

/-- What a hold-pool entry says of the move itself. -/
def HoldEntry.plan (h : HoldEntry) : Carriage × Point × ZoneIndex × Nat × Option StackRecord :=
  (h.carriage, h.target, h.zone, h.pops, h.push)

/-- Two contexts that differ at most in transform, tag, limits, fault report, verdict owed, and what their record says beside the
move itself. -/
structure Context.Alike (x y : Context) : Prop where
  state : y.state = x.state
  position : y.position = x.position
  zone : y.zone = x.zone
  clearance : y.clearance = x.clearance
  stack : y.stack = x.stack
  holdRef : y.holdRef = x.holdRef
  flight : y.inFlight.map InFlight.plan = x.inFlight.map InFlight.plan
  unenrolled : x = .unenrolled → y = .unenrolled

theorem Context.Alike.refl (x : Context) : x.Alike x := ⟨rfl, rfl, rfl, rfl, rfl, rfl, rfl, id⟩

theorem Context.Alike.trans {x y z : Context} (h : x.Alike y) (k : y.Alike z) : x.Alike z where
  state := k.state.trans h.state
  position := k.position.trans h.position
  zone := k.zone.trans h.zone
  clearance := k.clearance.trans h.clearance
  stack := k.stack.trans h.stack
  holdRef := k.holdRef.trans h.holdRef
  flight := k.flight.trans h.flight
  unenrolled := k.unenrolled ∘ h.unenrolled

/-- An enrolled context is not the one of R55. -/
theorem Context.ne_unenrolled {x : Context} (h : x.state ≠ .unenrolled) : x ≠ .unenrolled := fun eq => h (eq ▸ rfl)

/-- Two states with the same accounts of carriages, holds, wait lists and claims, the same table and governor state. -/
structure SameBooks (s t : State) : Prop where
  ctx : ∀ c, (s.ctx c).Alike (t.ctx c)
  pool : ∀ e : Fin 16, t.occ.pool[e].map HoldEntry.plan = s.occ.pool[e].map HoldEntry.plan
  waits : t.occ.waits = s.occ.waits
  claims : t.occ.claims = s.occ.claims
  table : t.table = s.table
  state : t.gov.state = s.gov.state

theorem SameBooks.of_fields {s t : State} (carriages : t.carriages = s.carriages) (pool : t.occ.pool = s.occ.pool)
    (waits : t.occ.waits = s.occ.waits) (claims : t.occ.claims = s.occ.claims) (table : t.table = s.table)
    (state : t.gov.state = s.gov.state) : SameBooks s t where
  ctx c := by rw [State.ctx, State.ctx, carriages]; exact .refl _
  pool e := by rw [pool]
  waits := waits
  claims := claims
  table := table
  state := state

theorem SameBooks.refl (s : State) : SameBooks s s := .of_fields rfl rfl rfl rfl rfl rfl

theorem SameBooks.trans {s t u : State} (h : SameBooks s t) (k : SameBooks t u) : SameBooks s u where
  ctx c := (h.ctx c).trans (k.ctx c)
  pool e := (k.pool e).trans (h.pool e)
  waits := k.waits.trans h.waits
  claims := k.claims.trans h.claims
  table := k.table.trans h.table
  state := k.state.trans h.state

theorem SameBooks.of_still {s t : State} (h : Still s t) : SameBooks s t :=
  .of_fields h.carriages (by rw [h.occ]) (by rw [h.occ]) (by rw [h.occ]) h.table h.state

theorem sameBooks_setCtx (c : Carriage) {x : Context} {s : State} (h : (s.ctx c).Alike x) : SameBooks s (setCtx c x s) where
  ctx d := by
    rw [ctx_setCtx]
    split
    next eq => rw [eq]; exact h
    next => exact .refl _
  pool _ := rfl
  waits := rfl
  claims := rfl
  table := rfl
  state := rfl

theorem SameBooks.setCtx {s t : State} (h : SameBooks s t) (c : Carriage) (x : Context) :
    SameBooks (setCtx c x s) (setCtx c x t) where
  ctx d := by
    rw [ctx_setCtx, ctx_setCtx]
    split
    · exact .refl x
    · exact h.ctx d
  pool := h.pool
  waits := h.waits
  claims := h.claims
  table := h.table
  state := h.state

theorem SameBooks.grantClaim {s t : State} (h : SameBooks s t) (z : Zone) : SameBooks (grantClaim z s) (grantClaim z t) where
  ctx := h.ctx
  pool := h.pool
  waits := h.waits
  claims := by simp only [grantClaim_occ, State.claimCount, h.claims]
  table := h.table
  state := h.state

theorem sameBooks_pushDq (f : DFrame) (s : State) : SameBooks s (pushDq f s) :=
  .trans (t := { s with link := { s.link with dq := s.link.dq ++ [f] } }) (.of_fields rfl rfl rfl rfl rfl rfl)
    (.of_still (quiet_evalPauses _).toStill)

theorem sameBooks_evalHoldWarn (b : Bool) (s : State) : SameBooks s (evalHoldWarn b s) := by
  unfold evalHoldWarn
  split
  · exact .of_fields rfl rfl rfl rfl rfl rfl
  · split <;> exact .of_fields rfl rfl rfl rfl rfl rfl

/-- HOLD_WARN is evaluated apart from the carriages. -/
theorem setCtx_evalHoldWarn (c : Carriage) (x : Context) (b : Bool) (s : State) :
    setCtx c x (evalHoldWarn b s) = evalHoldWarn b (setCtx c x s) := by
  unfold evalHoldWarn
  rw [apply_ite (setCtx c x), apply_ite (setCtx c x)]
  rfl

/-- An entry freed changes the accounts by that entry alone. -/
theorem sameBooks_freeEntry {e : Fin 16} {s t : State}
    (h : SameBooks s { t with occ := { t.occ with pool := t.occ.pool.set e.val none } }) : SameBooks s (freeEntry e t) :=
  h.trans (sameBooks_evalHoldWarn false _)

theorem sameBooks_feedLoop (n : Nat) (s : State) : SameBooks s (feedLoop n s) := by
  induction n generalizing s with
  | zero => exact .refl s
  | succ n ih =>
    unfold feedLoop
    split
    · exact .refl s
    · split
      next r rest _ _ =>
        have moved : SameBooks s (pushUq r.frame { s with occ := { s.occ with backlog := rest } }) :=
          .trans (t := { s with occ := { s.occ with backlog := rest } }) (.of_fields rfl rfl rfl rfl rfl rfl)
            (.of_still (quiet_pushUqMarked _ _ _).toStill)
        refine (moved.trans (sameBooks_setCtx _ ?_)).trans (ih _)
        exact ⟨rfl, rfl, rfl, rfl, rfl, rfl, rfl, fun eq => by rw [eq]; rfl⟩
      next => exact .refl s

theorem sameBooks_feed (s : State) : SameBooks s (feed s) := sameBooks_feedLoop _ s

/-- A report for an enrolled carriage changes no account. -/
theorem sameBooks_appendRecord {r : BacklogRecord} {s : State} (h : (s.ctx r.carriage).state ≠ .unenrolled) :
    SameBooks s (appendRecord r s) := by
  have queued : SameBooks s { s with occ := { s.occ with backlog := s.occ.backlog ++ [r] } } :=
    .of_fields rfl rfl rfl rfl rfl rfl
  refine (queued.trans (sameBooks_setCtx r.carriage ?_)).trans (sameBooks_feed _)
  exact ⟨rfl, rfl, rfl, rfl, rfl, rfl, rfl, fun eq => absurd eq (Context.ne_unenrolled h)⟩

theorem Context.alike_countDeadline (x : Context) : x.Alike x.countDeadline := by
  unfold Context.countDeadline
  split
  next moving =>
    refine ⟨rfl, rfl, rfl, rfl, rfl, rfl, ?_, fun eq => absurd eq (Context.ne_unenrolled (by rw [moving]; nofun))⟩
    cases x.inFlight <;> rfl
  next => exact .refl x

theorem HoldEntry.plan_count (h : HoldEntry) : h.count.plan = h.plan := by unfold HoldEntry.count; split <;> rfl

theorem sameBooks_countTicks (t : Ticks) (s : State) : SameBooks s (countTicks t s) := by
  unfold countTicks
  cases t.hundred with
  | false => exact .of_fields rfl rfl rfl rfl rfl rfl
  | true =>
    refine ⟨fun c => ?_, fun e => ?_, rfl, rfl, rfl, rfl⟩
    · simp only [State.ctx, if_true, Fin.getElem_fin, Vector.getElem_map]; exact Context.alike_countDeadline _
    · simp only [if_true, Fin.getElem_fin, Vector.getElem_map, Option.map_map]
      congr 1
      exact funext HoldEntry.plan_count

/-! ### The changes of the accounts -/

/-- A hold ends: its entry is free and off its list, and its carriage is PARKED (R113, R115). -/
def unhold (e : Fin 16) (h : HoldEntry) (s : State) : State :=
  setCtx h.carriage { s.ctx h.carriage with state := .parked, holdRef := none }
    { s with occ := { s.occ with
        waits := s.occ.waits.set h.zone.val (s.occ.waits[h.zone].erase e), pool := s.occ.pool.set e.val none } }

/-- The context of a held carriage whose move is passed (R111). -/
def Context.passed (x : Context) (h : HoldEntry) : Context :=
  x.forwarded (newRecord x h.source h.sequence h.level h.target h.zone.castSucc true h.pops h.push)

/-- The DRIVE_MOVE that a passed hold becomes (R111). -/
def HoldEntry.driveMove (h : HoldEntry) : DFrame :=
  .driveMove { source := h.source, carriage := h.carriage, level := h.level, sequence := h.sequence } h.target h.speed

/-- The head of a wait list is passed: its entry is free, its carriage MOVING, and the zone has one more claim (R111). -/
def passHead (z : ZoneIndex) (e : Fin 16) (h : HoldEntry) (rest : List (Fin 16)) (s : State) : State :=
  grantClaim z.castSucc (setCtx h.carriage ((s.ctx h.carriage).passed h)
    { s with occ := { s.occ with waits := s.occ.waits.set z.val rest, pool := s.occ.pool.set e.val none } })

/-- The context of a carriage whose move is forwarded at its arrival (R97). -/
def State.forwardedCtx (s : State) (h : Header) (m : Admitted) : Context :=
  (s.ctx h.carriage).forwarded (newRecord (s.ctx h.carriage) h.source h.sequence (s.effectiveLevel h) m.target m.zone m.entry
    m.plan.pops m.plan.push)

/-- A move starts: its carriage is MOVING, and an entry claims its zone (R97). -/
def startMove (h : Header) (m : Admitted) (s : State) : State :=
  if m.entry then grantClaim m.zone (setCtx h.carriage (s.forwardedCtx h m) s) else setCtx h.carriage (s.forwardedCtx h m) s

/-- A move is held: its carriage is HELD with an entry at the tail of the zone's list (R98, R109). -/
def enterHold (h : Header) (m : Admitted) (z : ZoneIndex) (e : Fin 16) (s : State) : State :=
  setCtx h.carriage { s.ctx h.carriage with state := .held, holdRef := some e }
    { s with occ := { s.occ with
        waits := s.occ.waits.set z.val (s.occ.waits[z] ++ [e]), pool := s.occ.pool.set e.val (some (s.holdEntry h m z)) } }

/-- A carriage comes to rest where it stood, or at a point of the floor that lies in its zone. -/
def State.RestsAt (s : State) (x : Context) (p : Point) : Prop := p = x.position ∨ s.table.onFloor p = true ∧ s.lookup p = x.zone

/-- Every change of the accounts keeps `P`, which says at least that the books agree. -/
structure Fine (P : State → Prop) : Prop where
  books : ∀ s, P s → s.BooksAgree
  alike : ∀ s t, SameBooks s t → P s → P t
  ended : ∀ s e h, s.occ.pool[e] = some h → P s → P (unhold e h s)
  passed : ∀ s (z : ZoneIndex) e h rest, s.gov.state = .governing → s.occ.waits[z] = e :: rest → s.occ.pool[e] = some h → P s →
    P (passHead z e h rest s)
  started : ∀ s h m, Admits s h m → P s → P (startMove h m s)
  held : ∀ s h m z e, Admits s h m → m.entry = true → m.zone = z.castSucc → s.occ.pool[e] = none → P s → P (enterHold h m z e s)
  commit : ∀ s c r p, (s.ctx c).state = .moving → (s.ctx c).inFlight = some r → r.entry = true → s.table.onFloor p = true →
    s.lookup p = r.targetZone → P s →
    P (dropClaim r.originZone (setCtx c ((s.ctx c).committed r p (s.placeAt r.targetZone).guardLevel) s))
  undo : ∀ s c r p, (s.ctx c).state = .moving → (s.ctx c).inFlight = some r → r.entry = true → s.RestsAt (s.ctx c) p → P s →
    P (dropClaim r.targetZone (setCtx c ((s.ctx c).restedAt p) s))
  stay : ∀ s c r p, (s.ctx c).state = .moving → (s.ctx c).inFlight = some r → r.entry = false → s.RestsAt (s.ctx c) p → P s →
    P (setCtx c ((s.ctx c).restedAt p) s)
  fault : ∀ s c r k q, (s.ctx c).state = .moving → (s.ctx c).inFlight = some r → P s → P (setCtx c ((s.ctx c).faultedBy r k q) s)
  enroll : ∀ s c p tag limit, (s.ctx c).state = .unenrolled → s.table.onFloor p = true → P s →
    P (grantClaim (s.lookup p) (setCtx c (.enrolledAt p (s.lookup p) tag limit) s))
  withdraw : ∀ s c, (s.ctx c).state = .parked → P s → P (setCtx c .unenrolled (dropClaim (s.ctx c).zone s))
  release : ∀ s c p, (s.ctx c).state = .faulted → s.table.onFloor p = true → P s →
    P (setCtx c ((s.ctx c).releasedAt p (s.lookup p))
      (grantClaim (s.lookup p) ((s.ctx c).claimedZones.foldl (fun s z => dropClaim z s) s)))
  halt : ∀ s, P s → P (withGov { s.gov with state := .halted } s)
  govern : ∀ s, P s → P (withGov { s.gov with state := .governing } s)
  standby : ∀ s, (∀ c, (s.ctx c).state ≠ .moving ∧ (s.ctx c).state ≠ .held) → P s → P (withGov { s.gov with state := .standby } s)
  floor : ∀ s b, s.gov.state = .standby → s.floorFits b = true → P s → P (withFloor b s)
  descriptor : ∀ s (i : ZoneIndex) d, s.descriptorInUse i = false →
    s.lookupsStand (s.table.descriptors.set i.val d) = true → P s → P (withDescriptor i d s)
  blank : ∀ s, Blank s → P s

/-! ### The whole operations change the accounts so -/

theorem sameBooks_pass (z : ZoneIndex) (e : Fin 16) (h : HoldEntry) (rest : List (Fin 16)) (s : State) :
    SameBooks (passHead z e h rest s) (pass z e h rest s) := by
  have granted : SameBooks (passHead z e h rest s) (freeEntry e (grantClaim z.castSucc (modifyCtx h.carriage
      (fun x => x.forwarded (newRecord x h.source h.sequence h.level h.target h.zone.castSucc true h.pops h.push))
      (pushDq h.driveMove (setWaits z rest s))))) := by
    have carriages : (pushDq h.driveMove (setWaits z rest s)).carriages = s.carriages := evalPauses_carriages _
    have occ : (pushDq h.driveMove (setWaits z rest s)).occ = (setWaits z rest s).occ := evalPauses_occ _
    have books := sameBooks_pushDq h.driveMove (setWaits z rest s)
    show SameBooks _ (freeEntry e (grantClaim z.castSucc (modifyCtx h.carriage _ (pushDq h.driveMove (setWaits z rest s)))))
    generalize pushDq h.driveMove (setWaits z rest s) = driven at *
    refine sameBooks_freeEntry (.of_fields ?_ ?_ ?_ ?_ books.table books.state)
    · show driven.carriages.set _ ((driven.ctx h.carriage).passed h) = s.carriages.set _ _
      rw [State.ctx, carriages]; rfl
    · show driven.occ.pool.set _ _ = _
      rw [occ]; rfl
    · show driven.occ.waits = _
      rw [occ]; rfl
    · show driven.occ.claims.set _ (driven.occ.claims[z.castSucc] + 1) = _
      rw [occ]; rfl
  refine granted.trans (sameBooks_appendRecord ?_)
  have moving : ((passHead z e h rest s).ctx h.carriage).state = .moving := congrArg Context.state (ctx_setCtx_self _ _ _)
  rw [show (h.report .released .none).carriage = h.carriage from rfl, (granted.ctx h.carriage).state, moving]
  nofun

theorem sameBooks_forwardMove (h : Header) (m : Admitted) (s : State) : SameBooks (startMove h m s) (forwardMove h m s) := by
  have driven := (sameBooks_pushDq (.driveMove (s.effectiveHeader h) m.target m.speed) s).setCtx h.carriage (s.forwardedCtx h m)
  unfold startMove
  split
  next entry =>
    have eq : forwardMove h m s = Machine.grantClaim m.zone (Machine.setCtx h.carriage (s.forwardedCtx h m)
        (pushDq (.driveMove (s.effectiveHeader h) m.target m.speed) s)) := by
      unfold forwardMove forward; exact if_pos entry
    rw [eq]; exact driven.grantClaim m.zone
  next stay =>
    have eq : forwardMove h m s = Machine.setCtx h.carriage (s.forwardedCtx h m)
        (pushDq (.driveMove (s.effectiveHeader h) m.target m.speed) s) := by
      unfold forwardMove forward; exact if_neg stay
    rw [eq]; exact driven

theorem sameBooks_holdMove (h : Header) (m : Admitted) (z : ZoneIndex) (e : Fin 16) (s : State) :
    SameBooks (enterHold h m z e s) (holdMove h m z e s) :=
  .trans (.of_fields rfl rfl rfl rfl rfl rfl) (sameBooks_evalHoldWarn true _)

theorem sameBooks_setRecheck (z : ZoneIndex) (b : Bool) (s : State) : SameBooks s (setRecheck z b s) :=
  .of_fields rfl rfl rfl rfl rfl rfl

theorem sameBooks_clearRecheck (z : ZoneIndex) (s : State) :
    SameBooks s (if s.occ.waits[z].isEmpty then setRecheck z false s else s) := by
  split
  · exact sameBooks_setRecheck z false s
  · exact .refl s

/-- The end of a hold changes the accounts as `unhold` does. -/
theorem sameBooks_endHold (v : Verdict) (r : Reason) {e : Fin 16} {h : HoldEntry} {s : State} (used : s.occ.pool[e] = some h) :
    SameBooks (unhold e h s) (endHold v r e s) := by
  have freed : SameBooks (unhold e h s) (modifyCtx h.carriage (fun x => { x with state := .parked, holdRef := none })
      (freeEntry e (setWaits h.zone (s.occ.waits[h.zone].erase e) s))) := by
    rw [modifyCtx, ctx_freeEntry, freeEntry, setCtx_evalHoldWarn]
    exact sameBooks_evalHoldWarn false (unhold e h s)
  have reported : SameBooks (unhold e h s) (appendRecord (h.report v r) (modifyCtx h.carriage
      (fun x => { x with state := .parked, holdRef := none })
      (freeEntry e (setWaits h.zone (s.occ.waits[h.zone].erase e) s)))) := by
    have parked : ((unhold e h s).ctx h.carriage).state = .parked := congrArg Context.state (ctx_setCtx_self _ _ _)
    refine freed.trans (sameBooks_appendRecord (r := h.report v r) ?_)
    rw [show (h.report v r).carriage = h.carriage from rfl, (freed.ctx h.carriage).state, parked]
    nofun
  unfold endHold
  rw [used]
  exact reported.trans (sameBooks_clearRecheck h.zone _)

end Sys2Proof.Machine
end

section
/-! What the changes of the accounts keep, every whole operation keeps. -/

namespace Sys2Proof.Machine

/-! ### A carriage that leaves the table, and the offer of its zone -/

/-- No pool entry belongs to the carriage. -/
def State.HoldsNothing (s : State) (c : Carriage) : Prop := ∀ (e : Fin 16) (h : HoldEntry), s.occ.pool[e] = some h → h.carriage ≠ c

theorem modifyCtx_setCtx_unenrolled {c d : Carriage} {f : Context → Context} (s : State)
    (fixed : d = c → f .unenrolled = .unenrolled) :
    modifyCtx d f (setCtx c .unenrolled s) = setCtx c .unenrolled (modifyCtx d f s) := by
  unfold modifyCtx
  by_cases eq : d = c
  · subst eq
    rw [ctx_setCtx_self, fixed rfl]
    simp [setCtx]
  · rw [ctx_setCtx_ne eq]
    have apart : c.val ≠ d.val := fun h => eq (Fin.ext h.symm)
    simp only [setCtx, Vector.set_comm _ _ apart]

theorem pushUq_setCtx (c : Carriage) (x : Context) (f : UFrame) (s : State) :
    pushUq f (setCtx c x s) = setCtx c x (pushUq f s) := evalPauses_setCtx c x { s with
      link := { s.link with uq := s.link.uq ++ [{ frame := f, answersReset := false }] } }

theorem pushDq_setCtx (c : Carriage) (x : Context) (f : DFrame) (s : State) :
    pushDq f (setCtx c x s) = setCtx c x (pushDq f s) := evalPauses_setCtx c x { s with
      link := { s.link with dq := s.link.dq ++ [f] } }

theorem feedLoop_setCtx_unenrolled (c : Carriage) (n : Nat) (s : State) :
    feedLoop n (setCtx c .unenrolled s) = setCtx c .unenrolled (feedLoop n s) := by
  induction n generalizing s with
  | zero => rfl
  | succ n ih =>
    unfold feedLoop
    rw [setCtx_occ]
    split
    next => rfl
    next r rest _ =>
      rw [show (setCtx c .unenrolled s).uqOpen = s.uqOpen from rfl]
      split
      next =>
        rw [← ih, ← modifyCtx_setCtx_unenrolled _ fun _ => rfl, ← pushUq_setCtx]
        rfl
      next => rfl

theorem appendRecord_setCtx_unenrolled {c : Carriage} {r : BacklogRecord} (other : r.carriage ≠ c) (s : State) :
    appendRecord r (setCtx c .unenrolled s) = setCtx c .unenrolled (appendRecord r s) := by
  have marked := modifyCtx_setCtx_unenrolled (c := c) (d := r.carriage) (f := fun x => { x with verdictOwed := true })
    { s with occ := { s.occ with backlog := s.occ.backlog ++ [r] } } fun eq => absurd eq other
  exact (congrArg feed marked).trans (feedLoop_setCtx_unenrolled c _ _)

theorem freeEntry_setCtx (c : Carriage) (x : Context) (e : Fin 16) (s : State) :
    freeEntry e (setCtx c x s) = setCtx c x (freeEntry e s) :=
  (setCtx_evalHoldWarn c x false { s with occ := { s.occ with pool := s.occ.pool.set e.val none } }).symm

theorem grantClaim_setCtx (c : Carriage) (x : Context) (z : Zone) (s : State) :
    grantClaim z (setCtx c x s) = setCtx c x (grantClaim z s) := rfl

theorem setWaits_setCtx (c : Carriage) (x : Context) (z : ZoneIndex) (l : List (Fin 16)) (s : State) :
    setWaits z l (setCtx c x s) = setCtx c x (setWaits z l s) := rfl

theorem pass_setCtx_unenrolled {c : Carriage} {h : HoldEntry} (other : h.carriage ≠ c) (z : ZoneIndex) (e : Fin 16)
    (rest : List (Fin 16)) (s : State) : pass z e h rest (setCtx c .unenrolled s) = setCtx c .unenrolled (pass z e h rest s) := by
  unfold pass
  dsimp only
  rw [setWaits_setCtx, pushDq_setCtx, modifyCtx_setCtx_unenrolled _ fun eq => absurd eq other, grantClaim_setCtx, freeEntry_setCtx,
    appendRecord_setCtx_unenrolled (show (h.report .released .none).carriage ≠ c from other)]

theorem holdsNothing_pass {c : Carriage} {s : State} (none : s.HoldsNothing c) (z : ZoneIndex) (e : Fin 16) (h : HoldEntry)
    (rest : List (Fin 16)) : (pass z e h rest s).HoldsNothing c := fun d g used => by
  have plan := (sameBooks_pass z e h rest s).pool d
  rw [used] at plan
  have left : (passHead z e h rest s).occ.pool[d] = if e = d then Option.none else s.occ.pool[d] := by
    simp only [passHead, grantClaim_occ, setCtx_occ, Fin.getElem_fin, Vector.getElem_set, Fin.ext_iff]
  rw [left] at plan
  split at plan
  next => cases plan
  next =>
    obtain ⟨g', before, eq⟩ := Option.map_eq_some_iff.1 plan.symm
    have same : g'.carriage = g.carriage := congrArg Prod.fst eq
    exact same ▸ none d g' before

theorem passLoop_setCtx_unenrolled {c : Carriage} (z : ZoneIndex) (n : Nat) {s : State} (none : s.HoldsNothing c) :
    passLoop z n (setCtx c .unenrolled s) = setCtx c .unenrolled (passLoop z n s) := by
  induction n generalizing s with
  | zero => rfl
  | succ n ih =>
    unfold passLoop
    rw [show (setCtx c .unenrolled s).passAllowed z = s.passAllowed z from rfl, setCtx_occ]
    split
    next =>
      split
      next => rfl
      next e rest _ =>
        split
        next => exact ih (s := setWaits z rest s) none
        next h used => rw [pass_setCtx_unenrolled (none e h used), ih (holdsNothing_pass none z e h rest)]
    next => rfl

/-- The offer of a zone does not touch a carriage that leaves the table (R60, R106). -/
theorem offer_setCtx_unenrolled {c : Carriage} (z : Zone) {s : State} (none : s.HoldsNothing c) :
    offer z (setCtx c .unenrolled s) = setCtx c .unenrolled (offer z s) := by
  unfold offer
  split
  · rw [setCtx_occ]
    dsimp only
    split
    · rfl
    · rw [show (setCtx c .unenrolled s).hasRoom z = s.hasRoom z from rfl]
      split
      · unfold reexamine
        rw [setCtx_occ, passLoop_setCtx_unenrolled _ _ none]
        rfl
      · rfl
  · rfl

/-! ### The whole operations -/

/-- In agreeing books a carriage that is not HELD owns no pool entry (R108). -/
theorem State.BooksAgree.holdsNothing {s : State} (b : s.BooksAgree) {c : Carriage} (h : (s.ctx c).state ≠ .held) :
    s.HoldsNothing c := fun e g used eq => h (eq ▸ (b.entries e g used).2.1)

/-- In agreeing books the in-flight record of a carriage starts in its zone (R66). -/
theorem State.BooksAgree.origin {s : State} (b : s.BooksAgree) {c : Carriage} {r : InFlight} (h : (s.ctx c).inFlight = some r) :
    r.originZone = (s.ctx c).zone := ((b.contexts c).2 r h).1

/-- The carriage that a matching record names is MOVING on that record. -/
theorem Context.movingRecord_eq_some {x : Context} {source : Source} {sequence : Byte} {r : InFlight}
    (h : x.movingRecord source sequence = some r) :
    x.state = .moving ∧ x.inFlight = some r ∧ r.source = source ∧ r.sequence = sequence := by
  unfold Context.movingRecord at h
  split at h
  next moving =>
    obtain ⟨flight, same⟩ := Option.filter_eq_some_iff.1 h
    simp only [Bool.and_eq_true, decide_eq_true_eq] at same
    exact ⟨moving, flight, same.1, same.2⟩
  next => cases h

/-- A hold that ends leaves no other carriage MOVING or HELD than before, and its own at rest. -/
theorem ctx_unhold (e : Fin 16) (h : HoldEntry) (s : State) (c : Carriage) :
    (unhold e h s).ctx c = if c = h.carriage then { s.ctx h.carriage with state := .parked, holdRef := none } else s.ctx c :=
  ctx_setCtx _ _ _ _

namespace Fine

variable {P : State → Prop} (k : Fine P)
include k

theorem still {s t : State} (h : Still s t) (hs : P s) : P t := k.alike s t (.of_still h) hs

theorem passLoop (z : ZoneIndex) (n : Nat) {s : State} (hs : P s) : P (passLoop z n s) := by
  induction n generalizing s with
  | zero => exact hs
  | succ n ih =>
    unfold Machine.passLoop
    split
    next allowed =>
      simp only [State.passAllowed, Bool.and_eq_true, decide_eq_true_eq] at allowed
      split
      next => exact hs
      next e rest waiting =>
        obtain ⟨h, used, -⟩ := ((k.books s hs).lists z).2 e (by rw [waiting]; exact .head _)
        rw [show s.occ.pool[e] = some h from used]
        exact ih (k.alike _ _ (sameBooks_pass z e h rest s) (k.passed s z e h rest allowed.1.1.1.1 waiting used hs))
    next => exact hs

theorem reexamine (z : ZoneIndex) {s : State} (hs : P s) : P (reexamine z s) :=
  k.alike _ _ (sameBooks_setRecheck _ _ _) (k.passLoop z _ hs)

theorem offer (z : Zone) {s : State} (hs : P s) : P (offer z s) := by
  unfold Machine.offer
  split
  · dsimp only
    split
    · exact k.alike _ _ (sameBooks_setRecheck _ _ _) hs
    · split
      · exact k.reexamine _ hs
      · exact hs
  · exact hs

theorem servePending {s : State} (hs : P s) : P (servePending s) :=
  KeptWhole.foldl (fun s z hs => by
    split
    · exact k.reexamine z hs
    · exact hs) _ hs

theorem endHold (v : Verdict) (r : Reason) (e : Fin 16) {s : State} (hs : P s) : P (endHold v r e s) := by
  cases used : s.occ.pool[e] with
  | none => unfold Machine.endHold; rw [used]; exact hs
  | some h => exact k.alike _ _ (sameBooks_endHold v r used) (k.ended s e h used hs)

theorem undoPurged (f : DFrame) {s : State} (hs : P s) : P (undoPurged s f) := by
  unfold Machine.undoPurged
  split
  next h _ _ =>
    split
    next => exact hs
    next r record =>
      obtain ⟨moving, flight, -, -⟩ := Context.movingRecord_eq_some record
      dsimp only
      split
      next entry =>
        have undone := k.undo s h.carriage r _ moving flight entry (.inl rfl) hs
        refine k.alike _ _ (sameBooks_appendRecord ?_) (k.offer r.targetZone undone)
        refine (keepsTag_offer h.carriage r.targetZone _).2 ?_
        rw [State.ctx, dropClaim_carriages]
        exact ne_of_eq_of_ne (congrArg Context.state (ctx_setCtx_self _ _ _)) nofun
      next stay =>
        have undone := k.stay s h.carriage r _ moving flight (by simpa using stay) (.inl rfl) hs
        refine k.alike _ _ (sameBooks_appendRecord ?_) undone
        exact ne_of_eq_of_ne (congrArg Context.state (ctx_setCtx_self _ _ _)) nofun
  next => exact hs

theorem haltEntry {s : State} (hs : P s) : P (haltEntry s) := by
  have halted : P (haltAndPurge s) :=
    k.alike (withGov { s.gov with state := .halted } s) _ (.of_fields rfl rfl rfl rfl rfl rfl) (k.halt s hs)
  have undone : P (s.link.purged.foldl Machine.undoPurged (haltAndPurge s)) :=
    KeptWhole.foldl (fun _ f hs => k.undoPurged f hs) _ halted
  unfold Machine.haltEntry
  refine k.still (quiet_evalPauses _).toStill ?_
  split
  · exact undone
  · exact k.servePending undone

theorem endHold_waits (v : Verdict) (r : Reason) {z : ZoneIndex} {e : Fin 16} {l : List (Fin 16)} {s : State} (hs : P s)
    (waiting : s.occ.waits[z] = e :: l) : (Machine.endHold v r e s).occ.waits = s.occ.waits.set z.val l := by
  obtain ⟨h, used, zone⟩ := ((k.books s hs).lists z).2 e (by rw [waiting]; exact .head _)
  rw [(sameBooks_endHold v r used).waits]
  subst zone
  show s.occ.waits.set h.zone.val (s.occ.waits[h.zone].erase e) = _
  rw [waiting, List.erase_cons_head]

/-- Every waiter of a zone withdrawn, its list is empty and the others stand (R117, R118). -/
theorem withdrawZone_waits (r : Reason) (z : ZoneIndex) {s : State} (hs : P s) :
    (withdrawZone r s z).occ.waits = s.occ.waits.set z.val [] := by
  unfold withdrawZone
  generalize waiting : s.occ.waits[z] = l
  induction l generalizing s with
  | nil => exact (waiting ▸ Vector.set_getElem_self z.isLt).symm
  | cons e l ih =>
    have next := k.endHold_waits .withdrawn r hs waiting
    have left : (Machine.endHold .withdrawn r e s).occ.waits[z] = l := by rw [next]; simp
    rw [List.foldl_cons, ih (k.endHold .withdrawn r e hs) left, next, Vector.set_set]

theorem withdrawZone (r : Reason) (z : ZoneIndex) {s : State} (hs : P s) : P (withdrawZone r s z) :=
  KeptWhole.foldl (fun _ e hs => k.endHold _ r e hs) _ hs

/-- Every zone's waiters withdrawn, no list has a waiter (R118). -/
theorem withdrawAll_waits (r : Reason) (l : List ZoneIndex) {s : State} (hs : P s) (z : ZoneIndex)
    (listed : z ∈ l ∨ s.occ.waits[z] = []) : (l.foldl (Machine.withdrawZone r) s).occ.waits[z] = [] := by
  induction l generalizing s with
  | nil => exact listed.resolve_left nofun
  | cons a l ih =>
    refine ih (k.withdrawZone r a hs) ?_
    rw [Fin.getElem_fin, k.withdrawZone_waits r a hs, Vector.getElem_set]
    split
    next => exact .inr rfl
    next other =>
      refine listed.imp_left fun mem => (List.mem_cons.1 mem).resolve_left ?_
      rintro rfl
      exact other rfl

end Fine

/-- No carriage is MOVING. -/
def State.NoneMoving (s : State) : Prop := ∀ c, (s.ctx c).state ≠ .moving

theorem noneMoving_of_anyMoving {s : State} (h : s.anyMoving = false) : s.NoneMoving := fun c moving => by
  have all := List.any_eq_false.1 h (s.ctx c) (Vector.mem_toList_iff.2 (Vector.getElem_mem c.isLt))
  exact all (decide_eq_true moving)

theorem noneMoving_endHold (v : Verdict) (r : Reason) (e : Fin 16) {s : State} (none : s.NoneMoving) :
    (endHold v r e s).NoneMoving := fun c => by
  cases used : s.occ.pool[e] with
  | none => unfold endHold; rw [used]; exact none c
  | some h =>
    rw [((sameBooks_endHold v r used).ctx c).state, ctx_unhold]
    split
    · nofun
    · exact none c

/-- In agreeing books without waiters no carriage is HELD (R108). -/
theorem State.BooksAgree.noneHeld {s : State} (b : s.BooksAgree) (empty : ∀ z : ZoneIndex, s.occ.waits[z] = []) (c : Carriage) :
    (s.ctx c).state ≠ .held := fun held => by
  obtain ⟨e, -, h, used, -⟩ := b.held c held
  have waits := (b.entries e h used).1
  rw [empty] at waits
  cases waits

/-- A law that follows the changes of the accounts is kept by every whole operation. -/
theorem Fine.kept {P : State → Prop} (k : Fine P) : KeptWhole Always P where
  quiet s t same _ := k.still same.toStill
  fed s t same _ hs := k.alike t _ (sameBooks_feed t) (k.still same hs)
  toDq s f _ _ := k.alike s _ (.of_fields rfl rfl rfl rfl rfl rfl)
  tx s x _ _ := k.alike s _ (.of_fields rfl rfl rfl rfl rfl rfl)
  sent s f rest _ _ _ hs := by
    have popped : P { s with link := { s.link with txD := .idle, dq := rest }, wireD := s.wireD ++ [.frame f.bytes] } :=
      k.alike s _ (.of_fields rfl rfl rfl rfl rfl rfl) hs
    unfold DFrame.whenSent
    split
    · unfold markSent
      split
      · exact popped
      next r record =>
        obtain ⟨moving, flight, -, -⟩ := Context.movingRecord_eq_some record
        refine k.alike _ _ (sameBooks_setCtx _ ⟨rfl, rfl, rfl, rfl, rfl, rfl, ?_, fun eq => ?_⟩) popped
        · rw [flight]; rfl
        · exact absurd eq (Context.ne_unenrolled (by rw [moving]; nofun))
    · exact popped
  reexamine s z _ hs := k.reexamine z hs
  endHold s v r e _ hs := k.endHold v r e hs
  forward s h m admits _ _ hs := k.alike _ _ (sameBooks_forwardMove h m s) (k.started s h m admits hs)
  hold s h m z e admits entry zone _ free _ hs := k.alike _ _ (sameBooks_holdMove h m z e s) (k.held s h m z e admits entry zone free hs)
  commit s c r p moving flight _ entry floor final _ hs := k.offer _ (k.commit s c r p moving flight entry floor final hs)
  undo s c r p moving flight _ entry floor final _ hs :=
    k.offer _ (k.undo s c r p moving flight entry (.inr ⟨floor, final.trans ((k.books s hs).origin flight)⟩) hs)
  stay s c r p moving flight _ stay floor final _ hs := k.stay s c r p moving flight stay (.inr ⟨floor, final⟩) hs
  fault s c r cause q moving flight _ _ _ hs := k.fault s c r cause q moving flight hs
  late s c p faulted _ hs := k.alike _ _ (sameBooks_setCtx c ⟨rfl, rfl, rfl, rfl, rfl, rfl, rfl,
    fun eq => absurd eq (Context.ne_unenrolled (by rw [faulted]; nofun))⟩) hs
  setUp s c en sc tu off tag enrolled _ _ hs := k.alike _ _ (sameBooks_setCtx c ⟨rfl, rfl, rfl, rfl, rfl, rfl, rfl,
    fun eq => absurd eq (Context.ne_unenrolled (by simpa [Context.enrolled] using enrolled))⟩) hs
  enroll s c p tag limit absent floor _ _ _ _ hs := k.enroll s c p tag limit absent floor hs
  withdraw s c parked _ _ hs := by
    have none : (dropClaim (s.ctx c).zone s).HoldsNothing c := (k.books s hs).holdsNothing (by rw [parked]; nofun)
    rw [releaseClaim, ← offer_setCtx_unenrolled _ none]
    exact k.offer _ (k.withdraw s c parked hs)
  release s c p faulted floor _ _ hs := KeptWhole.foldl (fun _ z hs => k.offer z hs) _ (k.release s c p faulted floor hs)
  haltEntry s _ hs := k.haltEntry hs
  govern s _ hs := k.govern s hs
  standby s idle _ hs := by
    have withdrawn : P ((List.finRange 64).foldl (Machine.withdrawZone .end_) s) :=
      KeptWhole.foldl (fun _ z hs => k.withdrawZone _ z hs) _ hs
    have none : ((List.finRange 64).foldl (Machine.withdrawZone .end_) s).NoneMoving :=
      KeptWhole.foldl (P := State.NoneMoving) (fun _ _ none =>
        KeptWhole.foldl (P := State.NoneMoving) (fun _ _ none => noneMoving_endHold _ _ _ none) _ none) _
        (noneMoving_of_anyMoving idle)
    have empty := fun z : ZoneIndex => k.withdrawAll_waits .end_ (List.finRange 64) hs z (.inl (List.mem_finRange z))
    exact k.standby _ (fun c => ⟨none c, (k.books _ withdrawn).noneHeld empty c⟩) withdrawn
  floor s b standby fits _ hs := k.floor s b standby fits hs
  descriptor s i d unused stand _ hs := k.descriptor s i d unused stand hs
  countTicks s t _ hs := k.alike _ _ (sameBooks_countTicks t s) hs
  blank s b := k.blank s b

end Sys2Proof.Machine
end

section
/-! Every step keeps the books of claims and holds (R104, R108): one update of a context, with the claims or the hold that goes
with it, is taken at a time. -/

namespace Sys2Proof.Machine

/-! ### What a context claims -/

/-- The carriage claims the zone: it stands in it, or its in-flight entry move goes there (R104). -/
def Context.claims (x : Context) (z : Zone) : Bool :=
  x.enrolled && (x.zone = z || x.inFlight.any (fun r => r.entry && r.targetZone = z))

theorem claimants_length (s : State) (z : Zone) :
    (s.claimants z).length = (List.finRange 32).countP fun c => (s.ctx c).claims z := (List.countP_eq_length_filter).symm

theorem claims_unenrolled (z : Zone) : Context.unenrolled.claims z = false := rfl

theorem Context.claims_of_grounded {x : Context} (enrolled : x.state ≠ .unenrolled) (flight : x.inFlight = none) (z : Zone) :
    x.claims z = decide (x.zone = z) := by simp [Context.claims, Context.enrolled, enrolled, flight]

theorem Context.claims_of_flight {x : Context} {r : InFlight} (enrolled : x.state ≠ .unenrolled) (flight : x.inFlight = some r)
    (z : Zone) : x.claims z = (decide (x.zone = z) || (r.entry && decide (r.targetZone = z))) := by
  simp [Context.claims, Context.enrolled, enrolled, flight]

theorem Context.Alike.claims {x y : Context} (h : x.Alike y) (z : Zone) : y.claims z = x.claims z := by
  have entries : ∀ o : Option InFlight, o.any (fun r => r.entry && r.targetZone = z) =
      (o.map InFlight.plan).any fun p => p.2.2.2.1 && p.2.1 = z := fun o => by cases o <;> rfl
  simp only [Context.claims, Context.enrolled, h.state, h.zone, entries, h.flight]

/-- A count over a list without repetition changes with the one element whose test changes. -/
theorem countP_update {α : Type} {p q : α → Bool} {c : α} {l : List α} (nodup : l.Nodup) (mem : c ∈ l)
    (same : ∀ d, d ≠ c → q d = p d) : l.countP q + (p c).toNat = l.countP p + (q c).toNat := by
  induction l with
  | nil => cases mem
  | cons a l ih =>
    obtain ⟨absent, nodup⟩ := List.nodup_cons.1 nodup
    rw [List.countP_cons, List.countP_cons]
    by_cases here : a = c
    · subst here
      have rest : l.countP q = l.countP p := List.countP_congr fun d hd => by
        rw [same d fun eq => absent (eq ▸ hd)]
      rw [rest]
      cases p a <;> cases q a <;> simp
    · have rest := ih nodup ((List.mem_cons.1 mem).resolve_left (Ne.symm here))
      rw [same a here]
      omega

/-- The counts follow a change of one context whose claims the zone counts follow. -/
theorem counts_update {s t : State} {c : Carriage} {y : Context} (counts : ∀ z, s.claimCount z = (s.claimants z).length)
    (carriages : t.carriages = s.carriages.set c.val y)
    (moved : ∀ z, t.claimCount z + ((s.ctx c).claims z).toNat = s.claimCount z + (y.claims z).toNat) (z : Zone) :
    t.claimCount z = (t.claimants z).length := by
  have ctx : ∀ d, t.ctx d = (setCtx c y s).ctx d := fun d => by rw [State.ctx, carriages]; rfl
  have update := countP_update (p := fun d => (s.ctx d).claims z) (q := fun d => (t.ctx d).claims z) (List.nodup_finRange 32)
    (List.mem_finRange c) fun d other => by rw [ctx, ctx_setCtx_ne other]
  have self : t.ctx c = y := by rw [ctx, ctx_setCtx_self]
  have before := counts z
  have change := moved z
  rw [self] at update
  rw [claimants_length] at before ⊢
  omega

/-- A zone that a carriage claims has a claim. -/
theorem claimCount_pos {s : State} {z : Zone} (counts : s.claimCount z = (s.claimants z).length) {c : Carriage}
    (claims : (s.ctx c).claims z = true) : 1 ≤ s.claimCount z := by
  rw [counts, claimants_length]
  exact List.countP_pos_iff.2 ⟨c, List.mem_finRange c, claims⟩

/-! ### A context changes outside the holds -/

/-- The records of one context fit (R54, R66). -/
def Context.Fits (x : Context) : Prop := x.FieldsFit ∧ x.RecordFits

theorem Context.fits_of_parked {x : Context} (state : x.state = .parked) (flight : x.inFlight = none) (held : x.holdRef = none) :
    x.Fits := by
  refine ⟨?_, fun r hr => by rw [flight] at hr; cases hr⟩
  rw [Context.FieldsFit, state]
  exact ⟨flight, held⟩

/-- The books after a change of one context that neither was nor is HELD. -/
theorem books_update {s t : State} {c : Carriage} {y : Context} (b : s.BooksAgree) (before : (s.ctx c).state ≠ .held)
    (fits : y.Fits) (after : y.state ≠ .held) (carriages : t.carriages = s.carriages.set c.val y)
    (pool : t.occ.pool = s.occ.pool) (waits : t.occ.waits = s.occ.waits)
    (moved : ∀ z, t.claimCount z + ((s.ctx c).claims z).toNat = s.claimCount z + (y.claims z).toNat) : t.BooksAgree := by
  have ctx : ∀ d, t.ctx d = (setCtx c y s).ctx d := fun d => by rw [State.ctx, carriages]; rfl
  have self : t.ctx c = y := by rw [ctx, ctx_setCtx_self]
  have others : ∀ {d}, d ≠ c → t.ctx d = s.ctx d := fun other => by rw [ctx, ctx_setCtx_ne other]
  refine ⟨fun d => ?_, fun z => ?_, fun e h used => ?_, fun d held => ?_, counts_update b.counts carriages moved⟩
  · by_cases eq : d = c
    · rw [eq, self]; exact fits
    · rw [others eq]; exact b.contexts d
  · rw [waits, pool]; exact b.lists z
  · rw [pool] at used
    have other : h.carriage ≠ c := b.holdsNothing before e h used
    rw [others other, waits]
    exact b.entries e h used
  · have other : d ≠ c := fun eq => after (by rw [← self, ← eq]; exact held)
    rw [others other] at held ⊢
    rw [pool]
    exact b.held d held

/-! ### A hold begins or ends -/

/-- In agreeing books a carriage owns one pool entry at most (R108). -/
theorem State.BooksAgree.owner_unique {s : State} (b : s.BooksAgree) {d e : Fin 16} {g h : HoldEntry}
    (there : s.occ.pool[d] = some g) (used : s.occ.pool[e] = some h) (same : g.carriage = h.carriage) : d = e := by
  have ref := (b.entries d g there).2.2.1
  rw [same, (b.entries e h used).2.2.1] at ref
  exact (Option.some.inj ref).symm

/-- The books after a hold has ended, with a change of its carriage's context. -/
theorem books_unhold {s t : State} {e : Fin 16} {h : HoldEntry} {y : Context} (b : s.BooksAgree) (used : s.occ.pool[e] = some h)
    (fits : y.Fits) (after : y.state ≠ .held) (carriages : t.carriages = s.carriages.set h.carriage.val y)
    (pool : t.occ.pool = s.occ.pool.set e.val none)
    (waits : t.occ.waits = s.occ.waits.set h.zone.val (s.occ.waits[h.zone].erase e))
    (moved : ∀ z, t.claimCount z + ((s.ctx h.carriage).claims z).toNat = s.claimCount z + (y.claims z).toNat) : t.BooksAgree := by
  have ctx : ∀ d, t.ctx d = (setCtx h.carriage y s).ctx d := fun d => by rw [State.ctx, carriages]; rfl
  have self : t.ctx h.carriage = y := by rw [ctx, ctx_setCtx_self]
  have others : ∀ {d}, d ≠ h.carriage → t.ctx d = s.ctx d := fun other => by rw [ctx, ctx_setCtx_ne other]
  have entry : ∀ d : Fin 16, t.occ.pool[d] = if d = e then none else s.occ.pool[d] := fun d => by
    rw [pool]; simp only [Fin.getElem_fin, Vector.getElem_set, Fin.ext_iff, eq_comm]
  have list : ∀ z : ZoneIndex, t.occ.waits[z] = if z = h.zone then (s.occ.waits[h.zone]).erase e else s.occ.waits[z] := fun z => by
    rw [waits]; simp only [Fin.getElem_fin, Vector.getElem_set, Fin.ext_iff, eq_comm]
  have waiting : ∀ {z : ZoneIndex} {d}, d ∈ t.occ.waits[z] ↔ d ∈ s.occ.waits[z] ∧ d ≠ e := fun {z d} => by
    rw [list]
    split
    next eq => rw [(b.lists h.zone).1.mem_erase_iff, eq, and_comm]
    next other =>
      refine ⟨fun mem => ⟨mem, ?_⟩, And.left⟩
      rintro rfl
      obtain ⟨g, same, zone⟩ := (b.lists z).2 d mem
      rw [used] at same
      cases same
      exact other zone.symm
  refine ⟨fun d => ?_, fun z => ⟨?_, fun d mem => ?_⟩, fun d g there => ?_, fun d held => ?_, counts_update b.counts carriages moved⟩
  · by_cases eq : d = h.carriage
    · rw [eq, self]; exact fits
    · rw [others eq]; exact b.contexts d
  · rw [list]
    split
    · exact (b.lists h.zone).1.erase e
    · exact (b.lists z).1
  · obtain ⟨mem, other⟩ := waiting.1 mem
    rw [entry, if_neg other]
    exact (b.lists z).2 d mem
  · rw [entry] at there
    split at there
    next => cases there
    next apart =>
      obtain ⟨wait, state, ref, zone⟩ := b.entries d g there
      have other : g.carriage ≠ h.carriage := fun eq => apart (b.owner_unique there used eq)
      rw [others other]
      exact ⟨waiting.2 ⟨wait, apart⟩, state, ref, zone⟩
  · have other : d ≠ h.carriage := fun eq => after (by rw [← self, ← eq]; exact held)
    rw [others other] at held ⊢
    obtain ⟨i, ref, g, there, owner⟩ := b.held d held
    refine ⟨i, ref, g, ?_, owner⟩
    rw [entry, if_neg]
    · exact there
    · rintro rfl
      rw [used] at there
      cases there
      exact other owner.symm

/-- The entry a held move takes. -/
theorem pool_enterHold (h : Header) (m : Admitted) (z : ZoneIndex) (e : Fin 16) (s : State) (d : Fin 16) :
    (enterHold h m z e s).occ.pool[d] = if d = e then some (s.holdEntry h m z) else s.occ.pool[d] := by
  simp only [enterHold, setCtx_occ, Fin.getElem_fin, Vector.getElem_set, Fin.ext_iff, eq_comm]

/-- The list a held move joins. -/
theorem waits_enterHold (h : Header) (m : Admitted) (z : ZoneIndex) (e : Fin 16) (s : State) (i : ZoneIndex) :
    (enterHold h m z e s).occ.waits[i] = if i = z then s.occ.waits[z] ++ [e] else s.occ.waits[i] := by
  simp only [enterHold, setCtx_occ, Fin.getElem_fin, Vector.getElem_set, Fin.ext_iff, eq_comm]

/-- The books after a move has been held: a PARKED carriage takes a free entry at the tail of another zone's list (R98, R109). -/
theorem books_enterHold {s : State} {h : Header} {m : Admitted} {z : ZoneIndex} {e : Fin 16} (b : s.BooksAgree)
    (parked : (s.ctx h.carriage).state = .parked) (away : z.castSucc ≠ (s.ctx h.carriage).zone) (free : s.occ.pool[e] = none) :
    (enterHold h m z e s).BooksAgree := by
  have self : (enterHold h m z e s).ctx h.carriage = { s.ctx h.carriage with state := .held, holdRef := some e } :=
    ctx_setCtx_self _ _ _
  have others : ∀ {d}, d ≠ h.carriage → (enterHold h m z e s).ctx d = s.ctx d := fun other => ctx_setCtx_ne other _ _
  obtain ⟨flight, -⟩ : (s.ctx h.carriage).inFlight = none ∧ _ := by
    have fits := (b.contexts h.carriage).1
    rw [Context.FieldsFit, parked] at fits
    exact fits
  have listed : ∀ {i : ZoneIndex} {d}, d ∈ s.occ.waits[i] → d ≠ e := by
    rintro i d mem rfl
    obtain ⟨g, used, -⟩ := (b.lists i).2 d mem
    rw [free] at used
    cases used
  refine ⟨fun d => ?_, fun i => ?_, fun d g there => ?_, fun d held => ?_,
    counts_update (c := h.carriage) b.counts rfl fun i => ?_⟩
  · by_cases eq : d = h.carriage
    · rw [eq, self]
      exact ⟨⟨flight, rfl⟩, fun r hr => by rw [flight] at hr; cases hr⟩
    · rw [others eq]; exact b.contexts d
  · obtain ⟨nodup, used⟩ := b.lists i
    have old : ∀ d ∈ s.occ.waits[i], ∃ g ∈ (enterHold h m z e s).occ.pool[d], g.zone = i := fun d mem => by
      rw [pool_enterHold, if_neg (listed mem)]; exact used d mem
    rw [waits_enterHold]
    split
    next eq =>
      subst eq
      refine ⟨List.nodup_append.2 ⟨nodup, List.nodup_singleton e, fun d mem f one => ?_⟩, fun d mem => ?_⟩
      · rw [List.mem_singleton.1 one]; exact listed mem
      · rcases List.mem_append.1 mem with mem | mem
        · exact old d mem
        · rw [List.mem_singleton.1 mem, pool_enterHold, if_pos rfl]; exact ⟨_, rfl, rfl⟩
    next => exact ⟨nodup, old⟩
  · rw [pool_enterHold] at there
    split at there
    next eq =>
      cases there
      rw [waits_enterHold, show (s.holdEntry h m z).carriage = h.carriage from rfl, show (s.holdEntry h m z).zone = z from rfl,
        if_pos rfl, self, eq]
      exact ⟨List.mem_append_right _ (.head _), rfl, rfl, away⟩
    next apart =>
      obtain ⟨wait, state, ref, zone⟩ := b.entries d g there
      have other : g.carriage ≠ h.carriage := fun eq => by rw [eq, parked] at state; cases state
      rw [others other, waits_enterHold]
      refine ⟨?_, state, ref, zone⟩
      split
      next eq => exact List.mem_append_left _ (eq ▸ wait)
      next => exact wait
  · by_cases eq : d = h.carriage
    · refine ⟨e, ?_, s.holdEntry h m z, ?_, eq.symm⟩
      · rw [eq, self]; rfl
      · rw [pool_enterHold, if_pos rfl]; rfl
    · rw [others eq] at held ⊢
      obtain ⟨i, ref, g, there, owner⟩ := b.held d held
      refine ⟨i, ref, g, ?_, owner⟩
      rw [pool_enterHold, if_neg]
      · exact there
      · rintro rfl
        rw [free] at there
        cases there
  · have claims : ({ s.ctx h.carriage with state := .held, holdRef := some e } : Context).claims i =
        (s.ctx h.carriage).claims i := by simp [Context.claims, Context.enrolled, parked]
    rw [claims]
    rfl

/-! ### The changes of the accounts -/

/-- A PARKED carriage has no record and no hold (R54). -/
theorem State.BooksAgree.parked {s : State} (b : s.BooksAgree) {c : Carriage} (h : (s.ctx c).state = .parked) :
    (s.ctx c).inFlight = none ∧ (s.ctx c).holdRef = none := by
  have fits := (b.contexts c).1
  rw [Context.FieldsFit, h] at fits
  exact fits

/-- A HELD carriage has no record (R54). -/
theorem State.BooksAgree.heldFlight {s : State} (b : s.BooksAgree) {c : Carriage} (h : (s.ctx c).state = .held) :
    (s.ctx c).inFlight = none := by
  have fits := (b.contexts c).1
  rw [Context.FieldsFit, h] at fits
  exact fits.1

/-- A MOVING carriage has no hold (R54). -/
theorem State.BooksAgree.movingHold {s : State} (b : s.BooksAgree) {c : Carriage} (h : (s.ctx c).state = .moving) :
    (s.ctx c).holdRef = none := by
  have fits := (b.contexts c).1
  rw [Context.FieldsFit, h] at fits
  exact fits.2

/-- A FAULTED carriage has its record and no hold (R54). -/
theorem State.BooksAgree.faulted {s : State} (b : s.BooksAgree) {c : Carriage} (h : (s.ctx c).state = .faulted) :
    ∃ r, (s.ctx c).inFlight = some r ∧ (s.ctx c).holdRef = none := by
  have fits := (b.contexts c).1
  rw [Context.FieldsFit, h] at fits
  obtain ⟨r, flight⟩ := Option.isSome_iff_exists.1 fits.1
  exact ⟨r, flight, fits.2⟩

/-- An entry move in flight goes to another zone (R66, R88). -/
theorem State.BooksAgree.entry {s : State} (b : s.BooksAgree) {c : Carriage} {r : InFlight} (h : (s.ctx c).inFlight = some r) :
    r.entry = decide (r.targetZone ≠ (s.ctx c).zone) := ((b.contexts c).2 r h).2

/-- A carriage that starts a move fits the form of MOVING. -/
theorem Context.fits_forwarded {x : Context} {r : InFlight} (origin : r.originZone = x.zone)
    (entry : r.entry = decide (r.targetZone ≠ x.zone)) : (x.forwarded r).Fits := by
  refine ⟨⟨rfl, rfl⟩, fun r' hr => ?_⟩
  cases hr
  exact ⟨origin, entry⟩

/-- Alike contexts have records of the same move. -/
theorem Context.Alike.record {x y : Context} (h : x.Alike y) {r : InFlight} (flight : y.inFlight = some r) :
    ∃ r', x.inFlight = some r' ∧ r'.plan = r.plan := by
  have plan := h.flight
  rw [flight] at plan
  exact Option.map_eq_some_iff.1 plan.symm

/-- States with the same accounts hold the same moves. -/
theorem SameBooks.entry {s t : State} (h : SameBooks s t) {e : Fin 16} {g : HoldEntry} (used : t.occ.pool[e] = some g) :
    ∃ g', s.occ.pool[e] = some g' ∧ g'.plan = g.plan := by
  have plan := h.pool e
  rw [used] at plan
  exact Option.map_eq_some_iff.1 plan.symm

theorem SameBooks.entry_of {s t : State} (h : SameBooks s t) {e : Fin 16} {g : HoldEntry} (used : s.occ.pool[e] = some g) :
    ∃ g', t.occ.pool[e] = some g' ∧ g'.plan = g.plan := by
  have plan := h.pool e
  rw [used] at plan
  exact Option.map_eq_some_iff.1 plan

theorem books_alike {s t : State} (same : SameBooks s t) (b : s.BooksAgree) : t.BooksAgree := by
  refine ⟨fun c => ⟨?_, fun r flight => ?_⟩, fun z => ?_, fun e h used => ?_, fun c held => ?_, fun z => ?_⟩
  · have fits := (b.contexts c).1
    have isSome : (t.ctx c).inFlight.isSome = (s.ctx c).inFlight.isSome := by
      rw [← Option.isSome_map (f := InFlight.plan), (same.ctx c).flight, Option.isSome_map]
    have isNone : (t.ctx c).inFlight = none ↔ (s.ctx c).inFlight = none := by
      rw [← Option.isNone_iff_eq_none, ← Option.isNone_iff_eq_none, ← Option.not_isSome, ← Option.not_isSome, isSome]
    unfold Context.FieldsFit at fits ⊢
    rw [(same.ctx c).state, (same.ctx c).holdRef, isSome, isNone]
    cases state : (s.ctx c).state <;> rw [state] at fits
    case unenrolled => exact (same.ctx c).unenrolled fits
    all_goals exact fits
  · obtain ⟨r', before, eq⟩ := (same.ctx c).record flight
    obtain ⟨origin, entry⟩ := (b.contexts c).2 r' before
    simp only [InFlight.plan, Prod.mk.injEq] at eq
    obtain ⟨-, target, from_, enters, -⟩ := eq
    rw [← from_, ← enters, ← target, (same.ctx c).zone]
    exact ⟨origin, entry⟩
  · rw [same.waits]
    refine ⟨(b.lists z).1, fun e mem => ?_⟩
    obtain ⟨g, used, zone⟩ := (b.lists z).2 e mem
    obtain ⟨h, now, eq⟩ := same.entry_of used
    exact ⟨h, now, (congrArg (fun p => p.2.2.1) eq).trans zone⟩
  · obtain ⟨g, before, eq⟩ := same.entry used
    simp only [HoldEntry.plan, Prod.mk.injEq] at eq
    obtain ⟨carriage, -, zone, -⟩ := eq
    have kept := b.entries e g before
    simp only [carriage, zone] at kept
    rw [same.waits, (same.ctx h.carriage).state, (same.ctx h.carriage).holdRef, (same.ctx h.carriage).zone]
    exact kept
  · rw [(same.ctx c).state] at held
    obtain ⟨e, ref, g, used, owner⟩ := b.held c held
    obtain ⟨h, now, eq⟩ := same.entry_of used
    exact ⟨e, (same.ctx c).holdRef ▸ ref, h, now, (congrArg (fun p => p.1) eq).trans owner⟩
  · have claims : (fun c => (t.ctx c).claims z) = fun c => (s.ctx c).claims z := funext fun c => (same.ctx c).claims z
    rw [claimants_length, claims, ← claimants_length, ← b.counts z, State.claimCount, same.claims]
    rfl

/-! ### The counts of the changes -/

/-- A grant of a zone that the context newly claims. -/
theorem moved_grantClaim {s : State} {x y : Context} {z : Zone}
    (claims : ∀ i, y.claims i = (x.claims i || decide (z = i))) (fresh : x.claims z = false) (i : Zone) :
    (grantClaim z s).claimCount i + (x.claims i).toNat = s.claimCount i + (y.claims i).toNat := by
  rw [claimCount_grantClaim, claims]
  by_cases here : z = i
  · subst here; simp [fresh]
  · simp [here]

/-- A release of a zone that the context no longer claims. -/
theorem moved_dropClaim {s : State} {x y : Context} {z : Zone} (counted : 1 ≤ s.claimCount z)
    (claims : ∀ i, x.claims i = (y.claims i || decide (z = i))) (gone : y.claims z = false) (i : Zone) :
    (dropClaim z s).claimCount i + (x.claims i).toNat = s.claimCount i + (y.claims i).toNat := by
  rw [claimCount_dropClaim, claims]
  by_cases here : z = i
  · subst here; simp [gone]; omega
  · simp [here]

/-- All claims of a carriage are dropped (R62). -/
theorem claimCount_dropClaims {s : State} {x : Context} (enrolled : x.state ≠ .unenrolled)
    (fits : x.RecordFits) (counted : ∀ z, x.claims z = true → 1 ≤ s.claimCount z) (i : Zone) :
    (x.claimedZones.foldl (fun s z => dropClaim z s) s).claimCount i + (x.claims i).toNat = s.claimCount i := by
  have own : x.claims x.zone = true := by simp [Context.claims, Context.enrolled, enrolled]
  have counted_own := counted _ own
  unfold Context.claimedZones
  cases flight : x.inFlight with
  | none =>
    rw [Context.claims_of_grounded enrolled flight]
    simp only [List.foldl_cons, List.foldl_nil, claimCount_dropClaim]
    by_cases here : x.zone = i
    · subst here; simp; omega
    · simp [here]
  | some r =>
    have entry := (fits r flight).2
    rw [Context.claims_of_flight enrolled flight]
    dsimp only
    split
    next enters =>
      rw [enters] at entry
      have apart : r.targetZone ≠ x.zone := of_decide_eq_true entry.symm
      have target : x.claims r.targetZone = true := by rw [Context.claims_of_flight enrolled flight, enters]; simp
      have counted_target := counted _ target
      split <;> simp only [List.foldl_cons, List.foldl_nil, claimCount_dropClaim, enters, Bool.true_and]
      all_goals
        by_cases here : x.zone = i
        · subst here; simp [apart]; omega
        · by_cases there : r.targetZone = i
          · subst there; simp [here]; omega
          · simp [here, there]
    next stay =>
      simp only [List.foldl_cons, List.foldl_nil, claimCount_dropClaim, stay]
      by_cases here : x.zone = i
      · subst here; simp; omega
      · simp [here]

/-! ### Each change keeps the books -/

/-- What a carriage claims is counted. -/
theorem State.BooksAgree.counted {s : State} (b : s.BooksAgree) {c : Carriage} {z : Zone} (h : (s.ctx c).claims z = true) :
    1 ≤ s.claimCount z := claimCount_pos (b.counts z) h

theorem books_startMove {s : State} {h : Header} {m : Admitted} (admits : Admits s h m) (b : s.BooksAgree) :
    (startMove h m s).BooksAgree := by
  obtain ⟨flight, -⟩ := b.parked admits.parked
  have atRest : (s.ctx h.carriage).state ≠ .held := by rw [admits.parked]; nofun
  have grounded := Context.claims_of_grounded (x := s.ctx h.carriage) (by rw [admits.parked]; nofun) flight
  have flown : ∀ i, (s.forwardedCtx h m).claims i = (decide ((s.ctx h.carriage).zone = i) || (m.entry && decide (m.zone = i))) :=
    fun i => Context.claims_of_flight (x := s.forwardedCtx h m) nofun rfl i
  unfold startMove
  rcases admits.way with ⟨stay, here, -⟩ | ⟨enters, away, -⟩
  · rw [if_neg (by simp [stay])]
    refine books_update b (y := s.forwardedCtx h m) atRest (Context.fits_forwarded rfl ?_) nofun rfl rfl rfl fun i => ?_
    · show m.entry = decide (m.zone ≠ _); rw [stay, here]; simp
    · rw [flown, grounded, stay, Bool.false_and, Bool.or_false]; rfl
  · rw [if_pos enters]
    refine books_update b (y := s.forwardedCtx h m) atRest (Context.fits_forwarded rfl ?_) nofun rfl rfl rfl ?_
    · show m.entry = decide (m.zone ≠ _); rw [enters]; simp [away]
    · refine moved_grantClaim (s := setCtx h.carriage (s.forwardedCtx h m) s) (fun i => ?_) ?_
      · rw [flown, grounded, enters, Bool.true_and]
      · rw [grounded, decide_eq_false_iff_not]; exact away.symm

theorem books_passHead {s : State} {z : ZoneIndex} {e : Fin 16} {h : HoldEntry} {rest : List (Fin 16)}
    (waiting : s.occ.waits[z] = e :: rest) (used : s.occ.pool[e] = some h) (b : s.BooksAgree) : (passHead z e h rest s).BooksAgree := by
  obtain ⟨g, same, zone⟩ := (b.lists z).2 e (by rw [waiting]; exact .head _)
  rw [Option.mem_def, used] at same
  cases same
  subst zone
  obtain ⟨-, held, -, away⟩ := b.entries e h used
  have grounded := Context.claims_of_grounded (x := s.ctx h.carriage) (by rw [held]; nofun) (b.heldFlight held)
  have flown : ∀ i, ((s.ctx h.carriage).passed h).claims i =
      (decide ((s.ctx h.carriage).zone = i) || (true && decide (h.zone.castSucc = i))) :=
    fun i => Context.claims_of_flight (x := (s.ctx h.carriage).passed h) nofun rfl i
  refine books_unhold b used (y := (s.ctx h.carriage).passed h) (Context.fits_forwarded rfl ?_) nofun rfl rfl ?_ ?_
  · exact (decide_eq_true away).symm
  · show s.occ.waits.set h.zone.val rest = _
    rw [waiting, List.erase_cons_head]
  · refine moved_grantClaim (s := setCtx h.carriage ((s.ctx h.carriage).passed h) { s with occ := { s.occ with
      waits := s.occ.waits.set h.zone.val rest, pool := s.occ.pool.set e.val none } }) (fun i => ?_) ?_
    · rw [flown, grounded, Bool.true_and]
    · rw [grounded, decide_eq_false_iff_not]; exact away.symm

/-- The books follow every change of the accounts. -/
theorem fineBooks : Fine State.BooksAgree where
  books _ := id
  alike _ _ := books_alike
  ended s e h used b := by
    obtain ⟨-, held, -, -⟩ := b.entries e h used
    have flight := b.heldFlight held
    refine books_unhold b used (y := { s.ctx h.carriage with state := .parked, holdRef := none }) (Context.fits_of_parked rfl flight rfl) nofun rfl rfl rfl fun i => ?_
    rw [Context.claims_of_grounded (x := { s.ctx h.carriage with state := .parked, holdRef := none }) nofun flight,
      Context.claims_of_grounded (by rw [held]; nofun) flight]
    rfl
  passed s z e h rest _ waiting used b := books_passHead waiting used b
  started s h m admits b := books_startMove admits b
  held s h m z e admits enters zone free b := by
    refine books_enterHold b admits.parked ?_ free
    rcases admits.way with ⟨stay, -⟩ | ⟨-, away, -⟩
    · rw [stay] at enters; cases enters
    · rw [← zone]; exact away
  commit s c r p moving flight enters _ _ b := by
    have enrolled : (s.ctx c).state ≠ .unenrolled := by rw [moving]; nofun
    have flown := Context.claims_of_flight enrolled flight
    have apart : r.targetZone ≠ (s.ctx c).zone := of_decide_eq_true ((b.entry flight).symm.trans enters)
    have rested : ∀ i, ((s.ctx c).committed r p (s.placeAt r.targetZone).guardLevel).claims i = decide (r.targetZone = i) :=
      fun i => Context.claims_of_grounded (x := (s.ctx c).committed r p _) nofun rfl i
    rw [b.origin flight]
    refine books_update b (c := c) (y := (s.ctx c).committed r p (s.placeAt r.targetZone).guardLevel) (by rw [moving]; nofun) (Context.fits_of_parked rfl rfl (b.movingHold moving)) nofun rfl rfl rfl
      (moved_dropClaim (b.counted (c := c) ?_) (fun i => ?_) ?_)
    · rw [flown]; simp
    · rw [flown, rested, enters, Bool.true_and, Bool.or_comm]
    · rw [rested]; exact decide_eq_false apart
  undo s c r p moving flight enters _ b := by
    have enrolled : (s.ctx c).state ≠ .unenrolled := by rw [moving]; nofun
    have flown := Context.claims_of_flight enrolled flight
    have apart : r.targetZone ≠ (s.ctx c).zone := of_decide_eq_true ((b.entry flight).symm.trans enters)
    have rested : ∀ i, ((s.ctx c).restedAt p).claims i = decide ((s.ctx c).zone = i) :=
      fun i => Context.claims_of_grounded (x := (s.ctx c).restedAt p) nofun rfl i
    refine books_update b (c := c) (y := (s.ctx c).restedAt p) (by rw [moving]; nofun) (Context.fits_of_parked rfl rfl (b.movingHold moving)) nofun rfl rfl rfl
      (moved_dropClaim (b.counted (c := c) ?_) (fun i => ?_) ?_)
    · rw [flown, enters]; simp
    · rw [flown, rested, enters, Bool.true_and]
    · rw [rested]; exact decide_eq_false apart.symm
  stay s c r p moving flight stays _ b := by
    have enrolled : (s.ctx c).state ≠ .unenrolled := by rw [moving]; nofun
    refine books_update b (c := c) (y := (s.ctx c).restedAt p) (by rw [moving]; nofun) (Context.fits_of_parked rfl rfl (b.movingHold moving)) nofun rfl rfl rfl
      fun i => ?_
    rw [Context.claims_of_flight enrolled flight, stays, Context.claims_of_grounded (x := (s.ctx c).restedAt p) nofun rfl,
      Bool.false_and, Bool.or_false]
    rfl
  fault s c r k q moving flight b := by
    have enrolled : (s.ctx c).state ≠ .unenrolled := by rw [moving]; nofun
    refine books_update b (c := c) (y := (s.ctx c).faultedBy r k q) (by rw [moving]; nofun) ⟨⟨rfl, b.movingHold moving⟩, fun r' hr => ?_⟩ nofun rfl rfl rfl
      fun i => ?_
    · cases hr; exact (b.contexts c).2 r flight
    · rw [Context.claims_of_flight enrolled flight, Context.claims_of_flight (x := (s.ctx c).faultedBy r k q) nofun rfl]
      rfl
  enroll s c p tag limit absent _ b := by
    have blank : s.ctx c = .unenrolled := by
      have fits := (b.contexts c).1
      rw [Context.FieldsFit, absent] at fits
      exact fits
    refine books_update b (c := c) (y := .enrolledAt p (s.lookup p) tag limit) (by rw [absent]; nofun) (Context.fits_of_parked rfl rfl rfl) nofun rfl rfl rfl
      (moved_grantClaim (s := setCtx c _ s) (fun i => ?_) ?_)
    · rw [blank, claims_unenrolled, Context.claims_of_grounded (x := .enrolledAt p (s.lookup p) tag limit) nofun rfl]; rfl
    · rw [blank, claims_unenrolled]
  withdraw s c parked b := by
    have grounded := Context.claims_of_grounded (x := s.ctx c) (by rw [parked]; nofun) (b.parked parked).1
    have own : (s.ctx c).claims (s.ctx c).zone = true := by rw [grounded]; simp
    refine books_update b (c := c) (by rw [parked]; nofun) Tests.fits_unenrolled nofun rfl rfl rfl
      (moved_dropClaim (b.counted own) (fun i => ?_) (claims_unenrolled _))
    rw [grounded, claims_unenrolled, Bool.false_or]
  release s c p faulted _ b := by
    obtain ⟨r, flight, hold⟩ := b.faulted faulted
    have enrolled : (s.ctx c).state ≠ .unenrolled := by rw [faulted]; nofun
    have dropped := claimCount_dropClaims enrolled (b.contexts c).2 fun _ => b.counted
    obtain ⟨claims, eq⟩ := foldl_dropClaim_eq (s.ctx c).claimedZones s
    rw [eq] at dropped ⊢
    refine books_update b (c := c) (y := (s.ctx c).releasedAt p (s.lookup p)) (by rw [faulted]; nofun) (Context.fits_of_parked rfl rfl hold) nofun rfl rfl rfl fun i => ?_
    have granted := moved_grantClaim (s := { s with occ := { s.occ with claims := claims } }) (x := .unenrolled)
      (y := (s.ctx c).releasedAt p (s.lookup p)) (z := s.lookup p) (fun i => Context.claims_of_grounded (x := (s.ctx c).releasedAt p (s.lookup p)) nofun rfl i) rfl i
    have after := dropped i
    rw [claims_unenrolled, Bool.toNat_false, Nat.add_zero] at granted
    show (grantClaim (s.lookup p) { s with occ := { s.occ with claims := claims } }).claimCount i + _ = _
    omega
  halt _ b := ⟨b.contexts, b.lists, b.entries, b.held, b.counts⟩
  govern _ b := ⟨b.contexts, b.lists, b.entries, b.held, b.counts⟩
  standby _ _ b := ⟨b.contexts, b.lists, b.entries, b.held, b.counts⟩
  floor _ _ _ _ b := ⟨b.contexts, b.lists, b.entries, b.held, b.counts⟩
  descriptor _ _ _ _ _ b := ⟨b.contexts, b.lists, b.entries, b.held, b.counts⟩
  blank s blank := by
    have ctx : ∀ c, s.ctx c = .unenrolled := fun c => by rw [State.ctx, blank.carriages]; simp
    refine Tests.books_of_noHolds (fun c => ?_) (fun c => ?_) (fun e => ?_) (fun z => ?_) fun z => ?_
    · rw [ctx]; exact Tests.fits_unenrolled
    · rw [ctx]; nofun
    · rw [blank.occ]; simp [Occupancy.reset]
    · rw [blank.occ]; simp [Occupancy.reset]
    · rw [claimants_length, State.claimCount, blank.occ]
      simp [Occupancy.reset, ctx, claims_unenrolled]

/-- Settles O37: a forward, a pass and an enrolment grant what the carriage newly claims, a commit, an undo and a release drop
what it no longer claims, and an entry leaves the pool, its list and its carriage's context together. -/
theorem stepKeepsBooks : Obligations.StepKeepsBooks := fun _ _ b h => fineBooks.kept.step b h

end Sys2Proof.Machine
end

section
/-! The portal stack: unwinding, the plan a check lets through, and what its commit leaves (R56, R90 to R94). -/

namespace Sys2Proof.Machine

/-- Popping as unwinding says drops that many records and gives the prospective clearance (R71, R90). -/
theorem applyPops_unwind (g c : Level) (stack : List StackRecord) :
    applyPops (unwind g c stack).1 stack c = (stack.drop (unwind g c stack).1, (unwind g c stack).2) := by
  induction stack generalizing c with
  | nil => rfl
  | cons r rest ih =>
    unfold unwind
    split
    · exact ih r.saved
    · rfl

/-- Unwinding leaves a lawful stack (R56, R90). -/
theorem stackLawful_unwind (g : Level) {c : Level} {stack : List StackRecord} (h : StackLawful c stack) :
    StackLawful (unwind g c stack).2 (stack.drop (unwind g c stack).1) := by
  induction stack generalizing c with
  | nil => exact h
  | cons r rest ih =>
    unfold unwind
    split
    · exact ih h.2
    · exact h

/-- Clearances rise strictly towards the bottom, so a lawful stack is short (R56). -/
theorem stackLawful_length {c : Level} {stack : List StackRecord} (h : StackLawful c stack) : c.val + stack.length ≤ 3 := by
  induction stack generalizing c with
  | nil => rw [show c = 3 from h]; decide
  | cons r rest ih =>
    have below : c.val < r.saved.val := h.1
    have deeper := ih h.2
    rw [List.length_cons]
    omega

/-- A plan that is let through pops what unwinding pops, and pushes at most the prospective clearance above the guard level
(R90 to R93). -/
theorem judgeClearance_ok {s : State} {x : Context} {level : Level} {via : Byte} {z : Zone} {plan : Plan}
    (h : judgeClearance s x level via z = .ok plan) :
    plan.pops = (unwind (s.placeAt z).guardLevel x.clearance x.stack).1 ∧
    ∀ r ∈ plan.push, r.saved = (unwind (s.placeAt z).guardLevel x.clearance x.stack).2 ∧
      (s.placeAt z).guardLevel < (unwind (s.placeAt z).guardLevel x.clearance x.stack).2 := by
  unfold judgeClearance at h
  dsimp only at h
  split at h
  next => cases h
  split at h
  next =>
    split at h
    next => cases h
    next => cases h; exact ⟨rfl, nofun⟩
  next =>
    split at h
    next => cases h
    split at h
    next above =>
      split at h
      next => cases h
      next => cases h; exact ⟨rfl, fun r pushed => by cases pushed; exact ⟨rfl, above⟩⟩
    next =>
      split at h
      next => cases h
      next => cases h; exact ⟨rfl, nofun⟩

/-- The outcome of a plan that is let through is lawful (R56, R94). -/
theorem stackLawful_of_judged {s : State} {x : Context} {level : Level} {via : Byte} {z : Zone} {plan : Plan}
    (lawful : StackLawful x.clearance x.stack) (h : judgeClearance s x level via z = .ok plan) :
    PlanLawful s x z plan.pops plan.push := by
  obtain ⟨pops, push⟩ := judgeClearance_ok h
  have popped := stackLawful_unwind (s.placeAt z).guardLevel lawful
  unfold PlanLawful applyPlan
  rw [pops, applyPops_unwind]
  cases pushed : plan.push with
  | none => exact popped
  | some r =>
    obtain ⟨saved, above⟩ := push r pushed
    exact ⟨saved ▸ above, saved ▸ popped⟩

/-- Settles O33: unwinding leaves a lawful stack, a push puts the prospective clearance above a lower one on it, and strictly
rising clearances of two bits leave at most 3 records. -/
theorem plansKeepStackLaw : Obligations.PlansKeepStackLaw := fun _ _ _ _ _ _ lawful h =>
  have after := stackLawful_of_judged lawful h
  ⟨after, (Nat.le_add_left _ _).trans (stackLawful_length after)⟩

end Sys2Proof.Machine
end

section
/-! Laws that each context and each held move keeps by itself, as the zone table and the governor state allow: such a law is
kept by every step when each change of an account keeps it. -/

namespace Sys2Proof.Machine

/-- A law of contexts (`own`) and of held moves with their carriage's context (`plan`). -/
structure Rule where
  own : State → Context → Prop
  plan : State → Context → HoldEntry → Prop

/-- Every context and every held move keeps the law. -/
def Rule.Holds (R : Rule) (s : State) : Prop :=
  (∀ c, R.own s (s.ctx c)) ∧ ∀ (e : Fin 16) (h : HoldEntry), s.occ.pool[e] = some h → R.plan s (s.ctx h.carriage) h

/-- Each change of an account keeps the law. -/
structure Rule.Lawful (R : Rule) : Prop where
  own_congr : ∀ s t x y, t.table = s.table → t.gov.state = s.gov.state → x.Alike y → R.own s x → R.own t y
  plan_congr : ∀ s t x y h g, t.table = s.table → x.Alike y → h.plan = g.plan → R.plan s x h → R.plan t y g
  ended : ∀ s x, x.state = .held → x.inFlight = none → R.own s x → R.own s { x with state := .parked, holdRef := none }
  passed : ∀ s x h, s.gov.state = .governing → x.state = .held → R.own s x → R.plan s x h → R.own s (x.passed h)
  started : ∀ s h m, Admits s h m → R.own s (s.ctx h.carriage) → R.own s (s.forwardedCtx h m)
  held : ∀ s h m z e, Admits s h m → m.entry = true → m.zone = z.castSucc → R.own s (s.ctx h.carriage) →
    R.own s { s.ctx h.carriage with state := .held, holdRef := some e } ∧
      R.plan s { s.ctx h.carriage with state := .held, holdRef := some e } (s.holdEntry h m z)
  commit : ∀ s x r p, x.inFlight = some r → s.table.onFloor p = true → s.lookup p = r.targetZone → R.own s x →
    R.own s (x.committed r p (s.placeAt r.targetZone).guardLevel)
  rest : ∀ s x p, x.state = .moving → s.RestsAt x p → R.own s x → R.own s (x.restedAt p)
  fault : ∀ s x r k q, x.inFlight = some r → x.state = .moving → R.own s x → R.own s (x.faultedBy r k q)
  enroll : ∀ s p tag limit, s.table.onFloor p = true → R.own s (.enrolledAt p (s.lookup p) tag limit)
  unenrolled : ∀ s, R.own s .unenrolled
  release : ∀ s x p, s.table.onFloor p = true → R.own s x → R.own s (x.releasedAt p (s.lookup p))
  governor : ∀ s g x, (g.state = .standby → x.state ≠ .moving ∧ x.state ≠ .held) → R.own s x → R.own (withGov g s) x

/-- The law outlives what SET_FLOOR and WRITE_ZONE let through. -/
structure Rule.TableLawful (R : Rule) : Prop where
  floor : ∀ s b, s.BooksAgree → s.gov.state = .standby → s.floorFits b = true → R.Holds s → R.Holds (withFloor b s)
  descriptor : ∀ s (i : ZoneIndex) d, s.BooksAgree → s.descriptorInUse i = false →
    s.lookupsStand (s.table.descriptors.set i.val d) = true → R.Holds s → R.Holds (withDescriptor i d s)

namespace Rule.Lawful

variable {R : Rule} (l : R.Lawful)
include l

/-- What a context says of itself stands wherever table and governor state stand. -/
theorem own_of {s t : State} {x : Context} (table : t.table = s.table) (state : t.gov.state = s.gov.state) (h : R.own s x) :
    R.own t x := l.own_congr s t x x table state (.refl x) h

theorem plan_of {s t : State} {x : Context} {h : HoldEntry} (table : t.table = s.table) (planned : R.plan s x h) : R.plan t x h :=
  l.plan_congr s t x x h h table (.refl x) rfl planned

/-- The law after a change of one context, with what may have become of its holds. -/
theorem holds_update {s t : State} {c : Carriage} {y : Context} (holds : R.Holds s) (own : R.own s y)
    (carriages : t.carriages = s.carriages.set c.val y) (table : t.table = s.table) (state : t.gov.state = s.gov.state)
    (pool : ∀ (e : Fin 16) (h : HoldEntry), t.occ.pool[e] = some h →
      s.occ.pool[e] = some h ∧ h.carriage ≠ c ∨ h.carriage = c ∧ R.plan s y h) : R.Holds t := by
  have ctx : ∀ d, t.ctx d = (setCtx c y s).ctx d := fun d => by rw [State.ctx, carriages]; rfl
  refine ⟨fun d => ?_, fun e h used => ?_⟩
  · rw [ctx, ctx_setCtx]
    split
    · exact l.own_of table state own
    · exact l.own_of table state (holds.1 d)
  · rw [ctx, ctx_setCtx]
    rcases pool e h used with ⟨before, other⟩ | ⟨here, plan⟩
    · rw [if_neg other]
      exact l.plan_of table (holds.2 e h before)
    · rw [if_pos here]
      exact l.plan_of table plan

/-- The law after a change of one context that holds nothing, where the pool stands. -/
theorem holds_setCtx {s t : State} {c : Carriage} {y : Context} (b : s.BooksAgree) (holds : R.Holds s)
    (free : (s.ctx c).state ≠ .held) (own : R.own s y) (carriages : t.carriages = s.carriages.set c.val y)
    (table : t.table = s.table) (state : t.gov.state = s.gov.state) (pool : t.occ.pool = s.occ.pool) : R.Holds t :=
  l.holds_update holds own carriages table state fun e h used => by
    rw [pool] at used
    exact .inl ⟨used, b.holdsNothing free e h used⟩

/-- The law after a change of one context whose hold ends. -/
theorem holds_unhold {s t : State} {e : Fin 16} {h : HoldEntry} {y : Context} (b : s.BooksAgree) (holds : R.Holds s)
    (used : s.occ.pool[e] = some h) (own : R.own s y) (carriages : t.carriages = s.carriages.set h.carriage.val y)
    (table : t.table = s.table) (state : t.gov.state = s.gov.state) (pool : t.occ.pool = s.occ.pool.set e.val none) : R.Holds t :=
  l.holds_update holds own carriages table state fun d g there => by
    have entry : t.occ.pool[d] = if d = e then none else s.occ.pool[d] := by
      rw [pool]; simp only [Fin.getElem_fin, Vector.getElem_set, Fin.ext_iff, eq_comm]
    rw [entry] at there
    split at there
    next => cases there
    next apart => exact .inl ⟨there, fun eq => apart (b.owner_unique there used eq)⟩

theorem holds_governor {s : State} {g : Governor} (holds : R.Holds s)
    (idle : g.state = .standby → ∀ c, (s.ctx c).state ≠ .moving ∧ (s.ctx c).state ≠ .held) : R.Holds (withGov g s) :=
  ⟨fun c => l.governor s g _ (fun standby => idle standby c) (holds.1 c), fun e h used => l.plan_of (s := s) rfl (holds.2 e h used)⟩

/-- The law, beside the books, follows every change of the accounts. -/
theorem fine (table : R.TableLawful) : Fine fun s => s.BooksAgree ∧ R.Holds s where
  books _ h := h.1
  alike s t same h := by
    refine ⟨fineBooks.alike s t same h.1, fun c => ?_, fun e g used => ?_⟩
    · exact l.own_congr s t _ _ same.table same.state (same.ctx c) (h.2.1 c)
    · obtain ⟨g', before, eq⟩ := same.entry used
      have owner : g'.carriage = g.carriage := congrArg Prod.fst eq
      exact l.plan_congr s t _ _ g' g same.table (owner ▸ same.ctx g'.carriage) eq (h.2.2 e g' before)
  ended s e h used := fun ⟨b, holds⟩ => by
    have held := (b.entries e h used).2.1
    exact ⟨fineBooks.ended s e h used b,
      l.holds_unhold b holds used (l.ended s _ held (b.heldFlight held) (holds.1 h.carriage)) rfl rfl rfl rfl⟩
  passed s z e h rest governing waiting used := fun ⟨b, holds⟩ =>
    ⟨fineBooks.passed s z e h rest governing waiting used b,
      l.holds_unhold b holds used (l.passed s _ h governing (b.entries e h used).2.1 (holds.1 h.carriage) (holds.2 e h used)) rfl rfl rfl rfl⟩
  started s h m admits := fun ⟨b, holds⟩ => by
    have own := l.started s h m admits (holds.1 h.carriage)
    have free : (s.ctx h.carriage).state ≠ .held := by rw [admits.parked]; nofun
    refine ⟨fineBooks.started s h m admits b, ?_⟩
    unfold startMove
    split <;> exact l.holds_setCtx b holds free own rfl rfl rfl rfl
  held s h m z e admits enters zone empty := fun ⟨b, holds⟩ => by
    obtain ⟨own, plan⟩ := l.held s h m z e admits enters zone (holds.1 h.carriage)
    refine ⟨fineBooks.held s h m z e admits enters zone empty b, l.holds_update holds own rfl rfl rfl fun d g there => ?_⟩
    rw [pool_enterHold] at there
    split at there
    next => cases there; exact .inr ⟨rfl, plan⟩
    next => exact .inl ⟨there, b.holdsNothing (by rw [admits.parked]; nofun) d g there⟩
  commit s c r p moving flight enters floor final := fun ⟨b, holds⟩ =>
    ⟨fineBooks.commit s c r p moving flight enters floor final b,
      l.holds_setCtx b holds (by rw [moving]; nofun) (l.commit s _ r p flight floor final (holds.1 c)) rfl rfl rfl rfl⟩
  undo s c r p moving flight enters rests := fun ⟨b, holds⟩ =>
    ⟨fineBooks.undo s c r p moving flight enters rests b,
      l.holds_setCtx b holds (by rw [moving]; nofun) (l.rest s _ p moving rests (holds.1 c)) rfl rfl rfl rfl⟩
  stay s c r p moving flight stays rests := fun ⟨b, holds⟩ =>
    ⟨fineBooks.stay s c r p moving flight stays rests b,
      l.holds_setCtx b holds (by rw [moving]; nofun) (l.rest s _ p moving rests (holds.1 c)) rfl rfl rfl rfl⟩
  fault s c r k q moving flight := fun ⟨b, holds⟩ =>
    ⟨fineBooks.fault s c r k q moving flight b,
      l.holds_setCtx b holds (by rw [moving]; nofun) (l.fault s _ r k q flight moving (holds.1 c)) rfl rfl rfl rfl⟩
  enroll s c p tag limit absent floor := fun ⟨b, holds⟩ =>
    ⟨fineBooks.enroll s c p tag limit absent floor b,
      l.holds_setCtx b holds (by rw [absent]; nofun) (l.enroll s p tag limit floor) rfl rfl rfl rfl⟩
  withdraw s c parked := fun ⟨b, holds⟩ =>
    ⟨fineBooks.withdraw s c parked b, l.holds_setCtx b holds (by rw [parked]; nofun) (l.unenrolled s) rfl rfl rfl rfl⟩
  release s c p faulted floor := fun ⟨b, holds⟩ => by
    refine ⟨fineBooks.release s c p faulted floor b, ?_⟩
    obtain ⟨claims, eq⟩ := foldl_dropClaim_eq (s.ctx c).claimedZones s
    rw [eq]
    exact l.holds_setCtx b holds (by rw [faulted]; nofun) (l.release s _ p floor (holds.1 c)) rfl rfl rfl rfl
  halt s := fun ⟨b, holds⟩ => ⟨fineBooks.halt s b, l.holds_governor holds nofun⟩
  govern s := fun ⟨b, holds⟩ => ⟨fineBooks.govern s b, l.holds_governor holds nofun⟩
  standby s idle := fun ⟨b, holds⟩ => ⟨fineBooks.standby s idle b, l.holds_governor holds fun _ => idle⟩
  floor s box standby fits := fun ⟨b, holds⟩ => ⟨fineBooks.floor s box standby fits b, table.floor s box b standby fits holds⟩
  descriptor s i d unused stand := fun ⟨b, holds⟩ =>
    ⟨fineBooks.descriptor s i d unused stand b, table.descriptor s i d b unused stand holds⟩
  blank s blank := by
    have ctx : ∀ c, s.ctx c = .unenrolled := fun c => by rw [State.ctx, blank.carriages]; simp
    refine ⟨fineBooks.blank s blank, fun c => ?_, fun e h used => ?_⟩
    · rw [ctx]; exact l.unenrolled s
    · rw [blank.occ] at used; simp [Occupancy.reset] at used

/-- Every step keeps the law, beside the books. -/
theorem step (table : R.TableLawful) {s t : State} (b : s.BooksAgree) (holds : R.Holds s) (h : Machine.step s = .next t) : R.Holds t :=
  ((l.fine table).kept.step ⟨b, holds⟩ h).2

end Rule.Lawful

/-! ### Two laws together -/

/-- Both laws. -/
def Rule.and (R Q : Rule) : Rule where
  own s x := R.own s x ∧ Q.own s x
  plan s x h := R.plan s x h ∧ Q.plan s x h

theorem Rule.and_holds {R Q : Rule} {s : State} : (R.and Q).Holds s ↔ R.Holds s ∧ Q.Holds s :=
  ⟨fun h => ⟨⟨fun c => (h.1 c).1, fun e g used => (h.2 e g used).1⟩, fun c => (h.1 c).2, fun e g used => (h.2 e g used).2⟩,
    fun h => ⟨fun c => ⟨h.1.1 c, h.2.1 c⟩, fun e g used => ⟨h.1.2 e g used, h.2.2 e g used⟩⟩⟩

theorem Rule.Lawful.and {R Q : Rule} (l : R.Lawful) (k : Q.Lawful) : (R.and Q).Lawful where
  own_congr s t x y table state alike own :=
    ⟨l.own_congr s t x y table state alike own.1, k.own_congr s t x y table state alike own.2⟩
  plan_congr s t x y h g table alike same plan :=
    ⟨l.plan_congr s t x y h g table alike same plan.1, k.plan_congr s t x y h g table alike same plan.2⟩
  ended s x held flight own := ⟨l.ended s x held flight own.1, k.ended s x held flight own.2⟩
  passed s x h governing held own plan :=
    ⟨l.passed s x h governing held own.1 plan.1, k.passed s x h governing held own.2 plan.2⟩
  started s h m admits own := ⟨l.started s h m admits own.1, k.started s h m admits own.2⟩
  held s h m z e admits enters zone own :=
    have left := l.held s h m z e admits enters zone own.1
    have right := k.held s h m z e admits enters zone own.2
    ⟨⟨left.1, right.1⟩, left.2, right.2⟩
  commit s x r p flight floor final own := ⟨l.commit s x r p flight floor final own.1, k.commit s x r p flight floor final own.2⟩
  rest s x p moving rests own := ⟨l.rest s x p moving rests own.1, k.rest s x p moving rests own.2⟩
  fault s x r c q flight moving own := ⟨l.fault s x r c q flight moving own.1, k.fault s x r c q flight moving own.2⟩
  enroll s p tag limit floor := ⟨l.enroll s p tag limit floor, k.enroll s p tag limit floor⟩
  unenrolled s := ⟨l.unenrolled s, k.unenrolled s⟩
  release s x p floor own := ⟨l.release s x p floor own.1, k.release s x p floor own.2⟩
  governor s g x idle own := ⟨l.governor s g x idle own.1, k.governor s g x idle own.2⟩

end Sys2Proof.Machine
end

section
/-! STANDBY, the recorded zones, the floor and the portal stacks: the four laws that follow the accounts. -/

namespace Sys2Proof.Machine

/-! ### STANDBY -/

/-- In STANDBY a carriage is neither MOVING nor HELD (R144). -/
def State.Idle (s : State) (x : Context) : Prop := s.gov.state = .standby → x.state ≠ .moving ∧ x.state ≠ .held

theorem State.idle_of_governing {s : State} (x : Context) (h : s.gov.state = .governing) : s.Idle x := fun standby => by
  rw [h] at standby; cases standby

/-- The law of STANDBY. -/
def standbyRule : Rule where
  own := State.Idle
  plan _ _ _ := True

theorem standbyRule_holds {s : State} : standbyRule.Holds s ↔ s.StandbyLawful :=
  ⟨fun h standby c => h.1 c standby, fun h => ⟨fun c standby => h standby c, fun _ _ _ => trivial⟩⟩

theorem standbyRule_lawful : standbyRule.Lawful where
  own_congr s t x y _ state alike own := by
    show t.gov.state = _ → y.state ≠ _ ∧ y.state ≠ _
    rw [state, alike.state]
    exact own
  plan_congr _ _ _ _ _ _ _ _ _ _ := trivial
  ended _ _ _ _ _ _ := ⟨nofun, nofun⟩
  passed _ _ _ governing _ _ _ := State.idle_of_governing _ governing
  started _ _ _ admits _ := State.idle_of_governing _ admits.governing
  held _ _ _ _ _ admits _ _ _ := ⟨State.idle_of_governing _ admits.governing, trivial⟩
  commit _ _ _ _ _ _ _ _ _ := ⟨nofun, nofun⟩
  rest _ _ _ _ _ _ _ := ⟨nofun, nofun⟩
  fault _ _ _ _ _ _ _ _ _ := ⟨nofun, nofun⟩
  enroll _ _ _ _ _ _ := ⟨nofun, nofun⟩
  unenrolled _ _ := ⟨nofun, nofun⟩
  release _ _ _ _ _ _ := ⟨nofun, nofun⟩
  governor _ _ _ idle _ := idle

theorem standbyRule_table : standbyRule.TableLawful where
  floor _ _ _ _ _ h := h
  descriptor _ _ _ _ _ _ h := h

/-- Settles O55: a carriage becomes MOVING or HELD in GOVERNING alone, and the END that leads to STANDBY finds none MOVING and
withdraws every held move. -/
theorem stepKeepsStandby : Obligations.StepKeepsStandby := fun _ _ standby b h =>
  standbyRule_holds.1 (standbyRule_lawful.step standbyRule_table b (standbyRule_holds.2 standby) h)

/-! ### Places of points -/

/-- A law of where points lie: of positions with their zones, of in-flight and held targets with theirs. -/
def placeRule (A : State → Point → Zone → Prop) : Rule where
  own s x := (x.enrolled → A s x.position x.zone) ∧ ∀ r ∈ x.inFlight, A s r.target r.targetZone
  plan s _ h := A s h.target h.zone.castSucc

/-- Where a point is recorded after the check or a DONE, it lies on the floor and in the recorded zone; so such a law follows
every change of the accounts. -/
theorem placeRule_lawful {A : State → Point → Zone → Prop} (congr : ∀ s t p z, t.table = s.table → A s p z → A t p z)
    (placed : ∀ s p, s.table.onFloor p = true → A s p (s.lookup p)) : (placeRule A).Lawful where
  own_congr s t x y table _ alike own := by
    refine ⟨fun enrolled => ?_, fun r flight => ?_⟩
    · rw [alike.position, alike.zone]
      exact congr s t _ _ table (own.1 (by simpa [Context.enrolled, alike.state] using enrolled))
    · obtain ⟨r', before, plan⟩ := alike.record flight
      simp only [InFlight.plan, Prod.mk.injEq] at plan
      rw [← plan.1, ← plan.2.1]
      exact congr s t _ _ table (own.2 r' before)
  plan_congr s t x y h g table _ plan planned := by
    simp only [HoldEntry.plan, Prod.mk.injEq] at plan
    show A t g.target g.zone.castSucc
    rw [← plan.2.1, ← plan.2.2.1]
    exact congr s t _ _ table planned
  ended s x held _ own := ⟨fun _ => own.1 (by simp [Context.enrolled, held]), own.2⟩
  passed s x h _ held own plan :=
    ⟨fun _ => own.1 (by simp [Context.enrolled, held]), fun r flight => by cases flight; exact plan⟩
  started s h m admits own :=
    ⟨fun _ => own.1 (by simp [Context.enrolled, admits.parked]), fun r flight => by
      cases flight
      show A s m.target m.zone
      rw [admits.zone]
      exact placed s _ admits.onFloor⟩
  held s h m z e admits _ zone own := by
    refine ⟨⟨fun _ => own.1 (by simp [Context.enrolled, admits.parked]), own.2⟩, ?_⟩
    show A s m.target z.castSucc
    rw [← zone, admits.zone]
    exact placed s _ admits.onFloor
  commit s x r p _ floor final _ := by
    refine ⟨fun _ => ?_, nofun⟩
    show A s p r.targetZone
    rw [← final]
    exact placed s p floor
  rest s x p moving rests own := by
    refine ⟨fun _ => ?_, nofun⟩
    rcases rests with stood | ⟨floor, final⟩
    · rw [stood]; exact own.1 (by simp [Context.enrolled, moving])
    · exact final ▸ placed s p floor
  fault s x r k q flight moving own :=
    ⟨fun _ => own.1 (by simp [Context.enrolled, moving]), fun r' same => by cases same; exact own.2 r flight⟩
  enroll s p tag limit floor := ⟨fun _ => placed s p floor, nofun⟩
  unenrolled s := ⟨nofun, nofun⟩
  release s x p floor _ := ⟨fun _ => placed s p floor, nofun⟩
  governor s g x _ own := ⟨fun enrolled => congr s _ _ _ rfl (own.1 enrolled), fun r flight => congr s _ _ _ rfl (own.2 r flight)⟩

theorem placeRule_holds {A : State → Point → Zone → Prop} {s : State} : (placeRule A).Holds s ↔
    (∀ c : Carriage, (s.ctx c).enrolled → A s (s.ctx c).position (s.ctx c).zone) ∧
    (∀ c : Carriage, ∀ r ∈ (s.ctx c).inFlight, A s r.target r.targetZone) ∧
    (∀ e : Fin 16, ∀ h ∈ s.occ.pool[e], A s h.target h.zone.castSucc) :=
  ⟨fun h => ⟨fun c => (h.1 c).1, fun c => (h.1 c).2, h.2⟩, fun h => ⟨fun c => ⟨h.1 c, h.2.1 c⟩, h.2.2⟩⟩

/-! ### The recorded zones -/

theorem lookup_congr_table {s t : State} (table : t.table = s.table) (p : Point) : t.lookup p = s.lookup p := by
  rw [State.lookup, table]; rfl

/-- The law of the recorded zones (R50). -/
def lookupRule : Rule := placeRule fun s p z => s.lookup p = z

theorem lookupRule_holds {s : State} : lookupRule.Holds s ↔ s.LookupsAgree := placeRule_holds

theorem lookupRule_lawful : lookupRule.Lawful :=
  placeRule_lawful (fun _ _ p _ table own => (lookup_congr_table table p).trans own) fun _ _ _ => rfl

/-- A WRITE_ZONE that is taken found every recorded point in its recorded zone under the new table (R50). -/
theorem lookupsAgree_of_lookupsStand {s : State} {i : ZoneIndex} {d : Descriptor}
    (h : s.lookupsStand (s.table.descriptors.set i.val d) = true) : (withDescriptor i d s).LookupsAgree := by
  simp only [State.lookupsStand, Bool.and_eq_true, List.all_eq_true, Vector.mem_toList_iff] at h
  obtain ⟨carriages, pool⟩ := h
  have ctx : ∀ c, _ := fun c => carriages (s.ctx c) (Vector.getElem_mem _)
  refine ⟨fun c enrolled => ?_, fun c r flight => ?_, fun e g used => ?_⟩
  · have own := (ctx c).1
    rw [show (s.ctx c).enrolled = true from enrolled, Bool.not_true, Bool.false_or] at own
    exact of_decide_eq_true own
  · have own := (ctx c).2
    rw [show (s.ctx c).inFlight = some r from flight] at own
    exact of_decide_eq_true own
  · have own := pool s.occ.pool[e] (Vector.getElem_mem _)
    rw [show s.occ.pool[e] = some g from used] at own
    exact of_decide_eq_true own

theorem lookupRule_table : lookupRule.TableLawful where
  floor _ _ _ _ _ h := h
  descriptor _ _ _ _ _ stand _ := lookupRule_holds.2 (lookupsAgree_of_lookupsStand stand)

/-- The table, the contexts and the pool decide the recorded zones. -/
theorem lookupsAgree_congr {s t : State} (table : t.table = s.table) (carriages : t.carriages = s.carriages)
    (pool : t.occ.pool = s.occ.pool) (h : s.LookupsAgree) : t.LookupsAgree := by
  have ctx : ∀ c, t.ctx c = s.ctx c := fun c => by rw [State.ctx, carriages]; rfl
  refine ⟨fun c => ?_, fun c => ?_, fun e => ?_⟩
  · rw [ctx, lookup_congr_table table]; exact h.1 c
  · intro r flight
    rw [ctx] at flight
    rw [lookup_congr_table table]; exact h.2.1 c r flight
  · intro g used
    rw [pool] at used
    rw [lookup_congr_table table]; exact h.2.2 e g used

/-- A request of the catalogue keeps what its owner keeps and no arrival or answer touches. -/
theorem exec_command_keeps {P : State → Prop} (quiet : ∀ s t, Quiet s t → P s → P t) (r : Request) {h : Header} {rid : Byte}
    {ops : List Byte} (run : ∀ s, P s → P (r.run ops s).state) {s t : State} (hs : P s)
    (taken : exec (r.command h rid ops) s = .next t) : P t := by
  rw [exec_command] at taken
  cases taken
  have idle : P (setReceiver .u .idle s) := quiet _ _ (quiet_setReceiver .u .idle s) hs
  have answered : ∀ (c : Byte) (a : Answer) (b : Bool), P a.state → P (respond h c rid a b) := fun _ _ _ ha =>
    quiet _ _ (quiet_pushUqMarked _ _ _) ha
  have flagged : P (raise .linkerr (setReceiver .u .idle s)) := quiet _ _ (quiet_raise _ _) idle
  have judged : P (takeMgmtReq h r.code rid ops (setReceiver .u .idle s)) := by
    unfold takeMgmtReq
    rw [Request.ofCode_code]
    dsimp only
    split
    · exact answered _ _ _ idle
    · split
      · exact answered _ _ _ idle
      · split
        · exact quiet _ _ (quiet_acceptReset _) (answered r.code _ true (run _ idle))
        · exact answered _ _ _ (run _ idle)
  unfold receive completeFrame
  dsimp only
  split
  · exact idle
  · split
    next => exact flagged
    next f same =>
      split at same
      · cases same
        unfold admitFrame
        split
        · exact judged
        · exact flagged
      · cases same

/-- Settles O24: points are recorded with their lookup, and a WRITE_ZONE is taken only where every recorded point stays in its
zone, whatever else the state is. -/
theorem stepKeepsLookups : Obligations.StepKeepsLookups := by
  refine ⟨fun s t lookups b h => lookupRule_holds.1 (lookupRule_lawful.step lookupRule_table b (lookupRule_holds.2 lookups) h),
    fun s t h rid ops lookups taken => ?_⟩
  refine exec_command_keeps (P := State.LookupsAgree)
    (fun s t same => lookupsAgree_congr same.table same.carriages (by rw [same.occ])) .writeZone (fun s hs => ?_) lookups taken
  simp only [Request.run, reqWriteZone]
  split
  next => exact hs
  split
  next => exact hs
  split
  next => exact hs
  split
  next => exact hs
  next free =>
    simp only [Bool.or_eq_true, Bool.not_eq_true', not_or, Bool.not_eq_true, Bool.not_eq_false] at free
    exact lookupsAgree_of_lookupsStand free.2

/-! ### The floor -/

/-- The law of STANDBY with the law of the floor (R24, R144). -/
def floorRule : Rule := standbyRule.and (placeRule fun s p _ => s.table.onFloor p = true)

theorem floorRule_holds {s : State} : floorRule.Holds s ↔ s.StandbyLawful ∧ s.PointsOnFloor :=
  Rule.and_holds.trans (and_congr standbyRule_holds placeRule_holds)

theorem floorRule_lawful : floorRule.Lawful :=
  standbyRule_lawful.and (placeRule_lawful (fun _ _ _ _ table own => by rw [table]; exact own) fun _ _ floor => floor)

/-- A SET_FLOOR that is taken found every position and in-flight target in the new box; held targets there are none (R24, R144). -/
theorem pointsOnFloor_of_floorFits {s : State} {b : Box} (books : s.BooksAgree) (idle : s.StandbyLawful)
    (standby : s.gov.state = .standby) (h : s.floorFits b = true) : (withFloor b s).PointsOnFloor := by
  simp only [State.floorFits, List.all_eq_true, Vector.mem_toList_iff, Bool.and_eq_true] at h
  have ctx : ∀ c, _ := fun c => h (s.ctx c) (Vector.getElem_mem _)
  refine ⟨fun c enrolled => ?_, fun c r flight => ?_, fun e g used => ?_⟩
  · have own := (ctx c).1
    rw [show (s.ctx c).enrolled = true from enrolled, Bool.not_true, Bool.false_or] at own
    exact own
  · have own := (ctx c).2
    rw [show (s.ctx c).inFlight = some r from flight] at own
    exact own
  · exact absurd (books.entries e g used).2.1 (idle standby g.carriage).2

theorem floorRule_table : floorRule.TableLawful where
  floor s b books standby fits h := by
    obtain ⟨idle, -⟩ := floorRule_holds.1 h
    exact floorRule_holds.2 ⟨idle, pointsOnFloor_of_floorFits books idle standby fits⟩
  descriptor _ _ _ _ _ _ h := h

/-- Settles O19: points are recorded by a check or a report that found them on the floor, and a SET_FLOOR in STANDBY covers every
position and record, where no move is held. -/
theorem stepKeepsPointsOnFloor : Obligations.StepKeepsPointsOnFloor := fun _ _ points idle b h =>
  (floorRule_holds.1 (floorRule_lawful.step floorRule_table b (floorRule_holds.2 ⟨idle, points⟩) h)).2

/-! ### The portal stacks -/

theorem placeAt_congr_table {s t : State} (table : t.table = s.table) (z : Zone) : t.placeAt z = s.placeAt z := by
  unfold State.placeAt State.descriptor; rw [table]

/-- What a plan leaves is decided by the guard level of its zone, the stack and the clearance. -/
theorem planLawful_congr {s t : State} {x y : Context} {z : Zone} (place : t.placeAt z = s.placeAt z) (stack : y.stack = x.stack)
    (clearance : y.clearance = x.clearance) {pops : Nat} {push : Option StackRecord} (h : PlanLawful s x z pops push) :
    PlanLawful t y z pops push := by
  unfold PlanLawful at h ⊢
  rw [place, stack, clearance]
  exact h

/-- The law of the portal stacks (R56, R94). -/
def stackRule : Rule where
  own s x := StackLawful x.clearance x.stack ∧ ∀ r ∈ x.inFlight, PlanLawful s x r.targetZone r.pops r.push
  plan s x h := PlanLawful s x h.zone.castSucc h.pops h.push

theorem stackRule_holds {s : State} : stackRule.Holds s ↔ s.StacksLawful :=
  ⟨fun h => ⟨fun c => (h.1 c).1, fun c => (h.1 c).2, h.2⟩, fun h => ⟨fun c => ⟨h.1 c, h.2.1 c⟩, h.2.2⟩⟩

theorem planLawful_of_admits {s : State} {h : Header} {m : Admitted} (admits : Admits s h m)
    (own : StackLawful (s.ctx h.carriage).clearance (s.ctx h.carriage).stack) :
    PlanLawful s (s.ctx h.carriage) m.zone m.plan.pops m.plan.push := by
  rcases admits.way with ⟨-, -, plan⟩ | ⟨-, -, level, via, cleared⟩
  · rw [plan]; exact own
  · exact stackLawful_of_judged own cleared

theorem stackRule_lawful : stackRule.Lawful where
  own_congr s t x y table _ alike own := by
    refine ⟨by rw [alike.clearance, alike.stack]; exact own.1, fun r flight => ?_⟩
    obtain ⟨r', before, plan⟩ := alike.record flight
    simp only [InFlight.plan, Prod.mk.injEq] at plan
    obtain ⟨-, zone, -, -, pops, push⟩ := plan
    rw [← zone, ← pops, ← push]
    exact planLawful_congr (placeAt_congr_table table _) alike.stack alike.clearance (own.2 r' before)
  plan_congr s t x y h g table alike plan planned := by
    simp only [HoldEntry.plan, Prod.mk.injEq] at plan
    obtain ⟨-, -, zone, pops, push⟩ := plan
    show PlanLawful t y g.zone.castSucc g.pops g.push
    rw [← zone, ← pops, ← push]
    exact planLawful_congr (placeAt_congr_table table _) alike.stack alike.clearance planned
  ended _ _ _ _ own := own
  passed _ _ _ _ _ own plan := ⟨own.1, fun r flight => by cases flight; exact plan⟩
  started _ _ _ admits own := ⟨own.1, fun r flight => by cases flight; exact planLawful_of_admits admits own.1⟩
  held s h m z e admits _ zone own := by
    have plan := planLawful_of_admits admits own.1
    rw [zone] at plan
    exact ⟨own, plan⟩
  commit _ _ r _ flight _ _ own := ⟨own.2 r flight, nofun⟩
  rest _ _ _ _ _ own := ⟨own.1, nofun⟩
  fault _ _ r _ _ flight _ own := ⟨own.1, fun r' same => by cases same; exact own.2 r flight⟩
  enroll _ _ _ _ _ := ⟨rfl, nofun⟩
  unenrolled _ := ⟨rfl, nofun⟩
  release _ _ _ _ _ := ⟨rfl, nofun⟩
  governor _ _ _ _ own := own

/-- A zone that a record goes to is claimed (R66, R104). -/
theorem State.BooksAgree.claims_target {s : State} (b : s.BooksAgree) {c : Carriage} {r : InFlight}
    (flight : (s.ctx c).inFlight = some r) : (s.ctx c).claims r.targetZone = true := by
  have enrolled : (s.ctx c).state ≠ .unenrolled := fun absent => by
    have fits := (b.contexts c).1
    rw [Context.FieldsFit, absent] at fits
    rw [show s.ctx c = .unenrolled from fits] at flight
    cases flight
  have entry := b.entry flight
  rw [Context.claims_of_flight enrolled flight]
  by_cases here : r.targetZone = (s.ctx c).zone
  · simp [here]
  · simp [entry, here]

/-- A descriptor that may be replaced is of a zone that no record and no held move goes to (R49). -/
theorem stackRule_table : stackRule.TableLawful where
  floor _ _ _ _ _ h := h
  descriptor s i d b unused _ h := by
    simp only [State.descriptorInUse, Bool.or_eq_false_iff, decide_eq_false_iff_not, Bool.not_eq_false'] at unused
    obtain ⟨⟨unclaimed, unwaited⟩, -⟩ := unused
    refine ⟨fun c => ⟨(h.1 c).1, fun r flight => ?_⟩, fun e g used => ?_⟩
    · have away : r.targetZone ≠ i.castSucc := fun eq => by
        have counted := b.counted (b.claims_target flight)
        rw [eq] at counted
        exact unclaimed counted
      exact planLawful_congr (placeAt_withDescriptor away d s) rfl rfl ((h.1 c).2 r flight)
    · have away : g.zone.castSucc ≠ i.castSucc := fun eq => by
        have waits := (b.entries e g used).1
        have zone : g.zone = i := Fin.castSucc_injective _ eq
        simp only [zone, List.isEmpty_iff.1 unwaited] at waits
        cases waits
      exact planLawful_congr (placeAt_withDescriptor away d s) rfl rfl (h.2 e g used)

/-- Settles O34: a plan is lawful when the check lets it through, it stays so while it stands because its carriage's stack and its
zone's guard level stand, and its commit is that outcome. -/
theorem stepKeepsStacks : Obligations.StepKeepsStacks := fun _ _ lawful b h =>
  stackRule_holds.1 (stackRule_lawful.step stackRule_table b (stackRule_holds.2 lawful) h)

end Sys2Proof.Machine
end

section
/-! HOLD_WARN follows the pool's in-use count, and a zone is marked recheck pending exactly while it has room and waiters. -/

namespace Sys2Proof.Machine

/-! ### What reports leave of the occupancy unit -/

theorem feedLoop_occ (n : Nat) (s : State) : ∃ b, (feedLoop n s).occ = { s.occ with backlog := b } := by
  induction n generalizing s with
  | zero => exact ⟨_, rfl⟩
  | succ n ih =>
    unfold feedLoop
    split
    · exact ⟨_, rfl⟩
    · split
      next r rest _ _ =>
        obtain ⟨b, eq⟩ := ih (modifyCtx r.carriage (fun x => { x with verdictOwed := false })
          (pushUq r.frame { s with occ := { s.occ with backlog := rest } }))
        refine ⟨b, eq.trans ?_⟩
        rw [modifyCtx, setCtx_occ, pushUq, pushUqMarked, evalPauses_occ]
      next => exact ⟨_, rfl⟩

/-- Feeding changes the backlog alone of the occupancy unit (R120). -/
theorem feed_occ (s : State) : ∃ b, (feed s).occ = { s.occ with backlog := b } := feedLoop_occ _ s

/-- A report changes the backlog alone of the occupancy unit (R119). -/
theorem appendRecord_occ (r : BacklogRecord) (s : State) : ∃ b, (appendRecord r s).occ = { s.occ with backlog := b } := feed_occ _

theorem pushDq_occ (f : DFrame) (s : State) : (pushDq f s).occ = s.occ := evalPauses_occ _

theorem evalPauses_gov (s : State) : (evalPauses s).gov = s.gov := by rw [evalPauses_eq]

/-! ### HOLD_WARN -/

theorem holdWarnLawful_congr {s t : State} (inUse : t.occ.inUse = s.occ.inUse) (warn : t.occ.holdWarn = s.occ.holdWarn)
    (h : s.HoldWarnLawful) : t.HoldWarnLawful := by
  unfold State.HoldWarnLawful
  rw [inUse, warn]
  exact h

theorem holdWarnLawful_of_occ {s t : State} (occ : t.occ = s.occ) (h : s.HoldWarnLawful) : t.HoldWarnLawful :=
  holdWarnLawful_congr (by rw [occ]) (by rw [occ]) h

theorem holdWarnLawful_feed {s : State} (h : s.HoldWarnLawful) : (feed s).HoldWarnLawful := by
  obtain ⟨b, eq⟩ := feed_occ s
  exact holdWarnLawful_congr (by rw [eq]; rfl) (by rw [eq]) h

theorem holdWarnLawful_appendRecord (r : BacklogRecord) {s : State} (h : s.HoldWarnLawful) : (appendRecord r s).HoldWarnLawful := by
  obtain ⟨b, eq⟩ := appendRecord_occ r s
  exact holdWarnLawful_congr (by rw [eq]; rfl) (by rw [eq]) h

/-- One written entry changes the in-use count by what it held and holds (R107). -/
theorem inUse_set (o : Occupancy) (e : Fin 16) (x : Option HoldEntry) :
    Occupancy.inUse { o with pool := o.pool.set e.val x } + (o.pool[e].isSome).toNat = o.inUse + x.isSome.toNat := by
  have length : e.val < o.pool.toList.length := by rw [Vector.length_toList]; exact e.isLt
  have there : o.pool.toList[e.val] = o.pool[e] := Vector.getElem_toList _
  have count := List.countP_set (p := Option.isSome) (a := x) length
  have least := List.boole_getElem_le_countP (p := Option.isSome) length
  rw [there] at count least
  unfold Occupancy.inUse
  rw [Vector.toList_set, count]
  generalize o.pool[e].isSome = before at *
  generalize x.isSome = after at *
  cases before <;> cases after <;>
    simp only [if_true, Bool.false_eq_true, if_false, Bool.toNat_true, Bool.toNat_false] at least ⊢ <;> omega

/-- HOLD_WARN after an entry was taken: it is set at 12 (R121). -/
theorem evalHoldWarn_taken (s : State) :
    (evalHoldWarn true s).occ = { s.occ with holdWarn := s.occ.holdWarn || decide (s.occ.inUse = 12) } := by
  unfold evalHoldWarn
  split
  next sets =>
    simp only [Bool.true_and, Bool.and_eq_true, decide_eq_true_eq] at sets
    simp [raise, sets.1]
  next stands =>
    have same : (s.occ.holdWarn || decide (s.occ.inUse = 12)) = s.occ.holdWarn := by
      simp only [Bool.true_and] at stands
      cases warn : s.occ.holdWarn <;> simp_all
    rw [same, if_neg (by simp)]

/-- HOLD_WARN after an entry was freed: it is cleared at 8 (R121). -/
theorem evalHoldWarn_freed (s : State) :
    (evalHoldWarn false s).occ = { s.occ with holdWarn := s.occ.holdWarn && !decide (s.occ.inUse = 8) } := by
  unfold evalHoldWarn
  rw [if_neg (by simp)]
  split
  next clears =>
    simp only [Bool.not_false, Bool.true_and, Bool.and_eq_true, decide_eq_true_eq] at clears
    simp [raise, clears.1]
  next stands =>
    have same : (s.occ.holdWarn && !decide (s.occ.inUse = 8)) = s.occ.holdWarn := by
      simp only [Bool.not_false, Bool.true_and] at stands
      cases warn : s.occ.holdWarn <;> simp_all
    rw [same]

theorem holdWarnLawful_freeEntry (e : Fin 16) {s : State} (h : s.HoldWarnLawful) : (freeEntry e s).HoldWarnLawful := by
  have count := inUse_set s.occ e none
  have within : (s.occ.pool[e].isSome).toNat ≤ 1 := Bool.toNat_le _
  obtain ⟨high, low⟩ := h
  unfold freeEntry State.HoldWarnLawful
  rw [evalHoldWarn_freed]
  show (12 ≤ Occupancy.inUse { s.occ with pool := s.occ.pool.set e.val none } → _) ∧ (Occupancy.inUse { s.occ with
    pool := s.occ.pool.set e.val none } ≤ 8 → _)
  simp only [Option.isSome_none, Bool.toNat_false, Nat.add_zero] at count
  generalize Occupancy.inUse { s.occ with pool := s.occ.pool.set e.val none } = n at *
  refine ⟨fun full => ?_, fun few => ?_⟩
  · rw [high (by omega), decide_eq_false (by omega)]; rfl
  · by_cases eight : n = 8
    · simp [eight]
    · rw [low (by omega)]; rfl

theorem holdWarnLawful_takeEntry (e : Fin 16) (x : HoldEntry) {s : State} (h : s.HoldWarnLawful) :
    (takeEntry e x s).HoldWarnLawful := by
  have count := inUse_set s.occ e (some x)
  have within : (s.occ.pool[e].isSome).toNat ≤ 1 := Bool.toNat_le _
  obtain ⟨high, low⟩ := h
  unfold takeEntry State.HoldWarnLawful
  rw [evalHoldWarn_taken]
  show (12 ≤ Occupancy.inUse { s.occ with pool := s.occ.pool.set e.val (some x) } → _) ∧ (Occupancy.inUse { s.occ with
    pool := s.occ.pool.set e.val (some x) } ≤ 8 → _)
  simp only [Option.isSome_some, Bool.toNat_true] at count
  generalize Occupancy.inUse { s.occ with pool := s.occ.pool.set e.val (some x) } = n at *
  refine ⟨fun full => ?_, fun few => ?_⟩
  · by_cases twelve : n = 12
    · simp [twelve]
    · rw [high (by omega)]; rfl
  · rw [low (by omega), decide_eq_false (by omega)]; rfl

theorem holdWarnLawful_pass (z : ZoneIndex) (e : Fin 16) (h : HoldEntry) (rest : List (Fin 16)) {s : State} (hs : s.HoldWarnLawful) :
    (pass z e h rest s).HoldWarnLawful := by
  refine holdWarnLawful_appendRecord _ (holdWarnLawful_freeEntry e ?_)
  have pool : (pushDq h.driveMove (setWaits z rest s)).occ.pool.toList.countP Option.isSome = s.occ.inUse := by rw [pushDq_occ]; rfl
  have warn : (pushDq h.driveMove (setWaits z rest s)).occ.holdWarn = s.occ.holdWarn := by rw [pushDq_occ]; rfl
  exact holdWarnLawful_congr (s := s) pool warn hs

theorem holdWarnLawful_passLoop (z : ZoneIndex) (n : Nat) {s : State} (h : s.HoldWarnLawful) : (passLoop z n s).HoldWarnLawful := by
  induction n generalizing s with
  | zero => exact h
  | succ n ih =>
    unfold passLoop
    split
    · split
      · exact h
      · split
        · exact ih (holdWarnLawful_congr (s := s) rfl rfl h)
        · exact ih (holdWarnLawful_pass z _ _ _ h)
    · exact h

theorem holdWarnLawful_reexamine (z : ZoneIndex) {s : State} (h : s.HoldWarnLawful) : (reexamine z s).HoldWarnLawful :=
  holdWarnLawful_congr (s := passLoop z s.occ.waits[z].length s) rfl rfl (holdWarnLawful_passLoop z _ h)

theorem holdWarnLawful_offer (z : Zone) {s : State} (h : s.HoldWarnLawful) : (offer z s).HoldWarnLawful := by
  unfold offer
  split
  · dsimp only
    split
    · exact holdWarnLawful_congr (s := s) rfl rfl h
    · split
      · exact holdWarnLawful_reexamine _ h
      · exact h
  · exact h

theorem holdWarnLawful_endHold (v : Verdict) (r : Reason) (e : Fin 16) {s : State} (h : s.HoldWarnLawful) :
    (endHold v r e s).HoldWarnLawful := by
  cases used : s.occ.pool[e] with
  | none => unfold endHold; rw [used]; exact h
  | some g =>
    have freed : (freeEntry e (setWaits g.zone (s.occ.waits[g.zone].erase e) s)).HoldWarnLawful :=
      holdWarnLawful_freeEntry e (holdWarnLawful_congr (s := s) rfl rfl h)
    have reported : (appendRecord (g.report v r) (modifyCtx g.carriage (fun x => { x with state := .parked, holdRef := none })
        (freeEntry e (setWaits g.zone (s.occ.waits[g.zone].erase e) s)))).HoldWarnLawful :=
      holdWarnLawful_appendRecord _ (holdWarnLawful_of_occ (setCtx_occ _ _ _) freed)
    unfold endHold
    rw [used]
    dsimp only
    split
    · exact holdWarnLawful_congr rfl rfl reported
    · exact reported

theorem holdWarnLawful_withGov (g : Governor) {s : State} (h : s.HoldWarnLawful) : (withGov g s).HoldWarnLawful := h

theorem holdWarnLawful_withdrawZone (r : Reason) (z : ZoneIndex) {s : State} (h : s.HoldWarnLawful) :
    (withdrawZone r s z).HoldWarnLawful := KeptWhole.foldl (fun _ e h => holdWarnLawful_endHold _ _ e h) _ h

/-- A forward grants the claim of an entry and changes nothing else of the occupancy unit (R97). -/
theorem forwardMove_occ (h : Header) (m : Admitted) (s : State) :
    (forwardMove h m s).occ = if m.entry then (grantClaim m.zone s).occ else s.occ := by
  have occ := pushDq_occ (.driveMove (s.effectiveHeader h) m.target m.speed) s
  have eq : (forwardMove h m s).occ = (if m.entry then grantClaim m.zone (setCtx h.carriage (s.forwardedCtx h m)
      (pushDq (.driveMove (s.effectiveHeader h) m.target m.speed) s)) else setCtx h.carriage (s.forwardedCtx h m)
      (pushDq (.driveMove (s.effectiveHeader h) m.target m.speed) s)).occ := rfl
  rw [eq]
  split
  · rw [grantClaim_occ, grantClaim_occ, State.claimCount, setCtx_occ, occ]; rfl
  · rw [setCtx_occ, occ]

theorem countTicks_inUse (t : Ticks) (s : State) : (countTicks t s).occ.inUse = s.occ.inUse := by
  unfold countTicks
  dsimp only
  split
  · unfold Occupancy.inUse
    rw [Vector.toList_map, List.countP_map]
    exact List.countP_congr fun x _ => by simp
  · rfl

theorem countTicks_holdWarn (t : Ticks) (s : State) : (countTicks t s).occ.holdWarn = s.occ.holdWarn := by
  unfold countTicks
  dsimp only
  split <;> rfl

/-- The pool, and with it HOLD_WARN, changes when an entry is taken or freed, and then HOLD_WARN is evaluated. -/
theorem keptHoldWarn : KeptWhole Always State.HoldWarnLawful where
  quiet _ _ same _ h := holdWarnLawful_of_occ same.occ h
  fed _ _ same _ h := holdWarnLawful_feed (holdWarnLawful_of_occ same.occ h)
  toDq _ _ _ _ h := h
  tx _ _ _ _ h := h
  sent s f rest _ _ _ h := by
    unfold DFrame.whenSent
    split
    · unfold markSent; split <;> exact h
    · exact h
  reexamine _ z _ h := holdWarnLawful_reexamine z h
  endHold _ v r e _ h := holdWarnLawful_endHold v r e h
  forward s h m _ _ _ hs := by
    have occ := forwardMove_occ h m s
    refine holdWarnLawful_congr ?_ ?_ hs <;> rw [occ] <;> split <;> rfl
  hold s h m z e _ _ _ _ _ _ hs := holdWarnLawful_takeEntry _ _ (holdWarnLawful_congr (s := s) rfl rfl hs)
  commit s c r p _ _ _ _ _ _ _ h := holdWarnLawful_offer _ (holdWarnLawful_congr (s := s) rfl rfl h)
  undo s c r p _ _ _ _ _ _ _ h := holdWarnLawful_offer _ (holdWarnLawful_congr (s := s) rfl rfl h)
  stay _ _ _ _ _ _ _ _ _ _ _ h := h
  fault _ _ _ _ _ _ _ _ _ _ h := h
  late _ _ _ _ _ h := h
  setUp _ _ _ _ _ _ _ _ _ _ h := h
  enroll s c p tag limit _ _ _ _ _ _ h := holdWarnLawful_congr (s := s) rfl rfl h
  withdraw s c _ _ _ h := holdWarnLawful_of_occ (setCtx_occ _ _ _) (holdWarnLawful_offer _ (holdWarnLawful_congr (s := s) rfl rfl h))
  release s c p _ _ _ _ h := by
    obtain ⟨claims, eq⟩ := foldl_dropClaim_eq (s.ctx c).claimedZones s
    rw [eq]
    exact KeptWhole.foldl (fun _ z h => holdWarnLawful_offer z h) _ (holdWarnLawful_congr (s := s) rfl rfl h)
  haltEntry s _ h := by
    have calm := calm_haltEntry s
    refine holdWarnLawful_congr ?_ calm.holdWarn h
    unfold Occupancy.inUse
    rw [calm.pool]
  govern _ _ h := h
  standby s _ _ h := by
    have withdrawn : ((List.finRange 64).foldl (withdrawZone .end_) s).HoldWarnLawful :=
      KeptWhole.foldl (fun _ z h => holdWarnLawful_withdrawZone _ z h) _ h
    exact holdWarnLawful_withGov _ withdrawn
  floor _ _ _ _ _ h := h
  descriptor _ _ _ _ _ _ h := h
  countTicks s t _ h := holdWarnLawful_congr (countTicks_inUse t s) (countTicks_holdWarn t s) h
  blank s blank := by
    unfold State.HoldWarnLawful
    rw [blank.occ]
    decide

/-- Settles O41: the count passes 12 and 8 one entry at a time, and HOLD_WARN is evaluated at each. -/
theorem stepKeepsHoldWarn : Obligations.StepKeepsHoldWarn := fun _ _ hs h => keptHoldWarn.step hs h

end Sys2Proof.Machine
end

section
/-! A zone is marked recheck pending exactly when it has room and waiters: what changes a zone's room or list offers it. -/

namespace Sys2Proof.Machine

/-! ### The law of one zone -/

/-- The mark of one zone is as R112 gives it. -/
def State.RecheckAt (s : State) (z : ZoneIndex) : Prop :=
  s.occ.recheck[z] = (s.hasRoom z.castSucc && !s.occ.waits[z].isEmpty)

theorem hasRoom_of_claimCount {s t : State} {z : Zone} (table : t.table = s.table) (claims : t.claimCount z = s.claimCount z) :
    t.hasRoom z = s.hasRoom z := by
  unfold State.hasRoom
  rw [placeAt_congr_table table, claims]

/-- Room does not vanish while claims only fall. -/
theorem hasRoom_mono {s t : State} {z : Zone} (place : t.placeAt z = s.placeAt z) (claims : t.claimCount z ≤ s.claimCount z)
    (h : t.hasRoom z = false) : s.hasRoom z = false := by
  simp only [State.hasRoom, Bool.or_eq_false_iff, decide_eq_false_iff_not, place] at h ⊢
  exact ⟨h.1, fun room => h.2 (Nat.lt_of_le_of_lt claims room)⟩

/-- Marks, lists, claims and table stand. -/
structure SameZones (s t : State) : Prop where
  table : t.table = s.table
  claims : t.occ.claims = s.occ.claims
  waits : t.occ.waits = s.occ.waits
  recheck : t.occ.recheck = s.occ.recheck

theorem SameZones.of_occ {s t : State} (table : t.table = s.table) (occ : t.occ = s.occ) : SameZones s t :=
  ⟨table, by rw [occ], by rw [occ], by rw [occ]⟩

theorem SameZones.trans {s t u : State} (h : SameZones s t) (k : SameZones t u) : SameZones s u :=
  ⟨k.table.trans h.table, k.claims.trans h.claims, k.waits.trans h.waits, k.recheck.trans h.recheck⟩

theorem sameZones_setCtx (c : Carriage) (x : Context) (s : State) : SameZones s (setCtx c x s) := .of_occ rfl rfl

theorem sameZones_withGov (g : Governor) (s : State) : SameZones s (withGov g s) := .of_occ rfl rfl

theorem sameZones_appendRecord (r : BacklogRecord) (s : State) : SameZones s (appendRecord r s) := by
  obtain ⟨b, occ⟩ := appendRecord_occ r s
  exact ⟨(calm_appendRecord r s).table, by rw [occ], by rw [occ], by rw [occ]⟩

theorem sameZones_freeEntry (e : Fin 16) (s : State) : SameZones s (freeEntry e s) := by
  obtain ⟨g, w, eq⟩ := freeEntry_eq e s
  rw [eq]
  exact ⟨rfl, rfl, rfl, rfl⟩

theorem SameZones.lawful {s t : State} (same : SameZones s t) (h : s.RechecksLawful) : t.RechecksLawful := fun z => by
  have room : t.hasRoom z.castSucc = s.hasRoom z.castSucc := hasRoom_congr same.table same.claims _
  rw [same.recheck, same.waits, room]
  exact h z

/-! ### Re-examinations and offers -/

/-- What a re-examination of one zone leaves of the others. -/
structure SameOthers (z : ZoneIndex) (s t : State) : Prop where
  table : t.table = s.table
  recheck : ∀ i : ZoneIndex, i ≠ z → t.occ.recheck[i] = s.occ.recheck[i]
  waits : ∀ i : ZoneIndex, i ≠ z → t.occ.waits[i] = s.occ.waits[i]
  claims : ∀ i : ZoneIndex, i ≠ z → t.claimCount i.castSucc = s.claimCount i.castSucc

theorem SameOthers.refl (z : ZoneIndex) (s : State) : SameOthers z s s := ⟨rfl, fun _ _ => rfl, fun _ _ => rfl, fun _ _ => rfl⟩

theorem SameOthers.trans {z : ZoneIndex} {s t u : State} (h : SameOthers z s t) (k : SameOthers z t u) : SameOthers z s u where
  table := k.table.trans h.table
  recheck i other := (k.recheck i other).trans (h.recheck i other)
  waits i other := (k.waits i other).trans (h.waits i other)
  claims i other := (k.claims i other).trans (h.claims i other)

theorem SameOthers.room {z i : ZoneIndex} {s t : State} (h : SameOthers z s t) (other : i ≠ z) :
    t.hasRoom i.castSucc = s.hasRoom i.castSucc := hasRoom_of_claimCount h.table (h.claims i other)

theorem SameOthers.recheckAt {z i : ZoneIndex} {s t : State} (h : SameOthers z s t) (other : i ≠ z) (law : s.RecheckAt i) :
    t.RecheckAt i := by
  unfold State.RecheckAt
  rw [h.recheck i other, h.waits i other, h.room other]
  exact law

theorem pass_recheck (z : ZoneIndex) (e : Fin 16) (h : HoldEntry) (rest : List (Fin 16)) (s : State) :
    (pass z e h rest s).occ.recheck = s.occ.recheck := by
  unfold pass
  refine (sameZones_appendRecord _ _).recheck.trans ((sameZones_freeEntry _ _).recheck.trans ?_)
  show (pushDq _ (setWaits z rest s)).occ.recheck = _
  rw [pushDq_occ]
  rfl

theorem sameOthers_setWaits (z : ZoneIndex) (l : List (Fin 16)) (s : State) : SameOthers z s (setWaits z l s) where
  table := rfl
  recheck _ _ := rfl
  waits i other := by
    have apart : z.val ≠ i.val := fun eq => other (Fin.ext eq.symm)
    simp [apart]
  claims _ _ := rfl

theorem sameOthers_pass (z : ZoneIndex) (e : Fin 16) (h : HoldEntry) (rest : List (Fin 16)) (s : State) :
    SameOthers z s (pass z e h rest s) where
  table := (sameBooks_pass z e h rest s).table
  recheck i _ := by rw [pass_recheck]
  waits i other := by rw [pass_waits]; exact (sameOthers_setWaits z rest s).waits i other
  claims i other := by
    have apart : z.castSucc ≠ i.castSucc := fun eq => other (Fin.castSucc_injective _ eq.symm)
    have counts := claimCount_grantClaim z.castSucc i.castSucc s
    rw [if_neg apart] at counts
    rw [← counts, State.claimCount, (sameBooks_pass z e h rest s).claims]
    rfl

theorem sameOthers_passLoop (z : ZoneIndex) (n : Nat) (s : State) : SameOthers z s (passLoop z n s) := by
  induction n generalizing s with
  | zero => exact .refl z s
  | succ n ih =>
    unfold passLoop
    split
    · split
      · exact .refl z s
      · split
        · exact (sameOthers_setWaits z _ s).trans (ih _)
        · exact (sameOthers_pass z _ _ _ s).trans (ih _)
    · exact .refl z s

theorem sameOthers_setRecheck (z : ZoneIndex) (b : Bool) (s : State) : SameOthers z s (setRecheck z b s) where
  table := rfl
  recheck i other := by
    have apart : z.val ≠ i.val := fun eq => other (Fin.ext eq.symm)
    simp [apart]
  waits _ _ := rfl
  claims _ _ := rfl

theorem setRecheck_self (z : ZoneIndex) (b : Bool) (s : State) : (setRecheck z b s).occ.recheck[z] = b := by simp

theorem sameOthers_reexamine (z : ZoneIndex) (s : State) : SameOthers z s (reexamine z s) :=
  (sameOthers_passLoop z _ s).trans (sameOthers_setRecheck z _ _)

/-- A re-examined zone is marked as its room and its waiters say (R110). -/
theorem recheckAt_reexamine (z : ZoneIndex) (s : State) : (reexamine z s).RecheckAt z := setRecheck_self z _ _

theorem rechecksLawful_reexamine (z : ZoneIndex) {s : State} (h : s.RechecksLawful) : (reexamine z s).RechecksLawful := fun i => by
  by_cases here : i = z
  · rw [here]; exact recheckAt_reexamine z s
  · exact (sameOthers_reexamine z s).recheckAt here (h i)

/-- The zones outside the list keep the law, and no zone is marked without room: the claims of the listed zones have fallen, and
their offers are due. -/
def State.OffersDue (l : List Zone) (s : State) : Prop :=
  ∀ z : ZoneIndex, (z.castSucc ∉ l → s.RecheckAt z) ∧ (s.hasRoom z.castSucc = false → s.occ.recheck[z] = false)

theorem State.RecheckAt.full {s : State} {z : ZoneIndex} (h : s.RecheckAt z) (full : s.hasRoom z.castSucc = false) :
    s.occ.recheck[z] = false := by rw [h, full]; rfl

theorem offersDue_nil {s : State} : s.OffersDue [] ↔ s.RechecksLawful :=
  ⟨fun h z => (h z).1 List.not_mem_nil, fun h z => ⟨fun _ => h z, (show s.RecheckAt z from h z).full⟩⟩

theorem recheckAt_of_empty {s : State} {z : ZoneIndex} (waits : s.occ.waits[z] = []) (mark : s.occ.recheck[z] = false) :
    s.RecheckAt z := by rw [State.RecheckAt, mark, waits]; simp

/-- An offer settles its zone (R106). -/
theorem offersDue_offer {z : Zone} {l : List Zone} {s : State} (h : s.OffersDue (z :: l)) : (offer z s).OffersDue l := by
  by_cases table : z.val < 64
  · obtain ⟨i, rfl⟩ : ∃ i : ZoneIndex, i.castSucc = z := ⟨⟨z.val, table⟩, rfl⟩
    have settled : ∀ t, SameOthers i s t → t.RecheckAt i → t.OffersDue l := fun t same law j => by
      by_cases here : j = i
      · rw [here]; exact ⟨fun _ => law, law.full⟩
      · refine ⟨fun out => same.recheckAt here ((h j).1 fun mem => ?_), fun full => ?_⟩
        · rcases List.mem_cons.1 mem with eq | mem
          · exact here (Fin.castSucc_injective _ eq)
          · exact out mem
        · rw [same.recheck j here]; exact (h j).2 (same.room here ▸ full)
    rw [offer_zone]
    split
    next empty =>
      exact settled _ (sameOthers_setRecheck i false s)
        (recheckAt_of_empty (s := setRecheck i false s) (List.isEmpty_iff.1 empty) (setRecheck_self i false s))
    next =>
      split
      next => exact settled _ (sameOthers_reexamine i s) (recheckAt_reexamine i s)
      next full =>
        have full : s.hasRoom i.castSucc = false := by simpa using full
        refine settled s (.refl i s) ?_
        rw [State.RecheckAt, (h i).2 full, full, Bool.false_and]
  · have floor : z = 64 := Fin.ext (by have := z.isLt; show z.val = 64; omega)
    subst floor
    rw [offer_floor]
    refine fun i => ⟨fun out => (h i).1 fun mem => ?_, (h i).2⟩
    rcases List.mem_cons.1 mem with eq | mem
    · exact absurd i.isLt (by have := congrArg Fin.val eq; simp at this; omega)
    · exact out mem

theorem rechecksLawful_foldl_offer {l : List Zone} {s : State} (h : s.OffersDue l) :
    (l.foldl (fun s z => offer z s) s).RechecksLawful := by
  induction l generalizing s with
  | nil => exact offersDue_nil.1 h
  | cons z l ih => exact ih (offersDue_offer h)

theorem offersDue_dropClaim (z : Zone) {s : State} (h : s.RechecksLawful) : (dropClaim z s).OffersDue [z] := fun i => by
  have counts := claimCount_dropClaim z i.castSucc s
  refine ⟨fun out => ?_, fun full => ?_⟩
  · rw [if_neg fun eq => out (List.mem_singleton.2 eq.symm)] at counts
    have room : (dropClaim z s).hasRoom i.castSucc = s.hasRoom i.castSucc := hasRoom_of_claimCount rfl counts
    rw [State.RecheckAt, room]
    exact h i
  · refine (show s.RecheckAt i from h i).full (hasRoom_mono (t := dropClaim z s) rfl ?_ full)
    rw [counts]
    split
    next eq => rw [eq]; exact Nat.sub_le _ _
    next => exact Nat.le_refl _

theorem rechecksLawful_releaseClaim (z : Zone) {s : State} (h : s.RechecksLawful) : (releaseClaim z s).RechecksLawful :=
  offersDue_nil.1 (offersDue_offer (offersDue_dropClaim z h))

theorem waitList_castSucc (s : State) (z : ZoneIndex) : s.waitList z.castSucc = s.occ.waits[z] := by
  rw [State.waitList, dif_pos (show z.castSucc.val < 64 from z.isLt)]; rfl

/-- A grant to a zone without waiters leaves it unmarked. -/
theorem rechecksLawful_grantClaim {z : Zone} {s : State} (empty : s.waitList z = []) (h : s.RechecksLawful) :
    (grantClaim z s).RechecksLawful := fun i => by
  by_cases here : z = i.castSucc
  · rw [here, waitList_castSucc] at empty
    refine recheckAt_of_empty (s := grantClaim z s) empty ?_
    show s.occ.recheck[i] = false
    rw [h i, empty]; simp
  · have counts := claimCount_grantClaim z i.castSucc s
    rw [if_neg here] at counts
    have room : (grantClaim z s).hasRoom i.castSucc = s.hasRoom i.castSucc := hasRoom_of_claimCount rfl counts
    rw [room]
    exact h i

/-! ### Holds -/

/-- A list that loses an entry, and whose mark is cleared when it is left empty (R113). -/
theorem rechecksLawful_shorter {s t : State} {z : ZoneIndex} (table : t.table = s.table) (claims : t.occ.claims = s.occ.claims)
    (recheck : t.occ.recheck = s.occ.recheck) {l : List (Fin 16)} (waits : t.occ.waits = s.occ.waits.set z.val l)
    (shorter : l ≠ [] → s.occ.waits[z] ≠ []) (h : s.RechecksLawful) :
    State.RechecksLawful (if t.occ.waits[z].isEmpty then setRecheck z false t else t) := by
  have here : t.occ.waits[z] = l := by rw [waits]; simp
  have others : SameOthers z s t := by
    refine ⟨table, fun _ _ => by rw [recheck], fun i other => ?_, fun _ _ => by rw [State.claimCount, claims]; rfl⟩
    rw [waits]
    exact (sameOthers_setWaits z l s).waits i other
  split
  next empty =>
    intro i
    by_cases at_z : i = z
    · subst at_z
      exact recheckAt_of_empty (s := setRecheck i false t) (List.isEmpty_iff.1 empty) (setRecheck_self i false t)
    · exact (others.trans (sameOthers_setRecheck z false t)).recheckAt at_z (h i)
  next waiting =>
    intro i
    by_cases at_z : i = z
    · subst at_z
      rw [here] at waiting
      have before := shorter fun empty => waiting (List.isEmpty_iff.2 empty)
      have room : t.hasRoom i.castSucc = s.hasRoom i.castSucc := hasRoom_congr table claims _
      have law := h i
      rw [recheck, here, room, law]
      rw [List.isEmpty_eq_false_iff.2 before, Bool.eq_false_iff.2 waiting]
    · exact others.recheckAt at_z (h i)

theorem rechecksLawful_endHold (v : Verdict) (r : Reason) (e : Fin 16) {s : State} (h : s.RechecksLawful) :
    (endHold v r e s).RechecksLawful := by
  cases used : s.occ.pool[e] with
  | none => unfold endHold; rw [used]; exact h
  | some g =>
    have same := (sameZones_freeEntry e (setWaits g.zone (s.occ.waits[g.zone].erase e) s)).trans
      ((sameZones_setCtx _ _ _).trans (sameZones_appendRecord (g.report v r)
        (modifyCtx g.carriage (fun x => { x with state := .parked, holdRef := none })
          (freeEntry e (setWaits g.zone (s.occ.waits[g.zone].erase e) s)))))
    unfold endHold
    rw [used]
    refine rechecksLawful_shorter (s := s) same.table same.claims same.recheck same.waits (fun some none => ?_) h
    rw [none] at some
    exact some rfl

/-- A move held where it cannot enter leaves the zone unmarked if it is full, and marked as before if others waited (R96, R98). -/
theorem rechecksLawful_holdMove {h : Header} {m : Admitted} {z : ZoneIndex} (e : Fin 16) {s : State} (zone : m.zone = z.castSucc)
    (shut : s.freelyEntered m.zone = false) (hs : s.RechecksLawful) : (holdMove h m z e s).RechecksLawful := by
  obtain ⟨g, w, eq⟩ := takeEntry_eq e (s.holdEntry h m z)
    (modifyCtx h.carriage (fun x => { x with state := .held, holdRef := some e }) (setWaits z (s.occ.waits[z] ++ [e]) s))
  rw [zone, State.freelyEntered, waitList_castSucc] at shut
  have joined : SameZones (setWaits z (s.occ.waits[z] ++ [e]) s) (holdMove h m z e s) := by
    rw [holdMove, eq]; exact ⟨rfl, rfl, rfl, rfl⟩
  refine joined.lawful fun i => ?_
  by_cases here : i = z
  · subst here
    have law := hs i
    show s.occ.recheck[i] = (s.hasRoom i.castSucc && !((s.occ.waits.set i.val (s.occ.waits[i] ++ [e]))[i]).isEmpty)
    have list : (s.occ.waits.set i.val (s.occ.waits[i] ++ [e]))[i] = s.occ.waits[i] ++ [e] := by simp
    rw [list, law]
    cases room : s.hasRoom i.castSucc with
    | false => rfl
    | true =>
      rw [room, Bool.true_and] at shut
      rw [shut]
      simp
  · exact (sameOthers_setWaits z _ s).recheckAt here (hs i)

/-! ### Halts and releases -/

theorem rechecksLawful_servePending {s : State} (h : s.RechecksLawful) : (servePending s).RechecksLawful :=
  KeptWhole.foldl (fun s z h => by
    split
    · exact rechecksLawful_reexamine z h
    · exact h) _ h

theorem rechecksLawful_undoPurged (f : DFrame) {s : State} (h : s.RechecksLawful) : (undoPurged s f).RechecksLawful := by
  unfold undoPurged
  split
  · split
    · exact h
    next c _ _ _ r _ =>
      have parked := (sameZones_setCtx c.carriage { s.ctx c.carriage with inFlight := none, state := .parked } s).lawful h
      dsimp only
      split
      · exact (sameZones_appendRecord _ _).lawful (rechecksLawful_releaseClaim _ parked)
      · exact (sameZones_appendRecord _ _).lawful parked
  · exact h

theorem rechecksLawful_haltEntry {s : State} (h : s.RechecksLawful) : (haltEntry s).RechecksLawful := by
  have undone : (s.link.purged.foldl undoPurged (haltAndPurge s)).RechecksLawful :=
    KeptWhole.foldl (fun _ f h => rechecksLawful_undoPurged f h) _ ((SameZones.of_occ (s := s) rfl rfl).lawful h)
  unfold haltEntry
  refine (SameZones.of_occ (evalPauses_table _) (evalPauses_occ _)).lawful ?_
  split
  · exact undone
  · exact rechecksLawful_servePending undone

/-- The zones a carriage claims (R61, R104). -/
theorem mem_claimedZones {x : Context} (enrolled : x.state ≠ .unenrolled) (z : Zone) : z ∈ x.claimedZones ↔ x.claims z = true := by
  unfold Context.claimedZones
  cases flight : x.inFlight with
  | none => simp [Context.claims_of_grounded enrolled flight, @eq_comm _ z]
  | some r =>
    rw [Context.claims_of_flight enrolled flight]
    dsimp only
    split
    next entry =>
      split <;> simp only [List.mem_cons, List.not_mem_nil, or_false, entry, Bool.true_and, Bool.or_eq_true, decide_eq_true_eq,
        @eq_comm _ z]
      exact or_comm
    next stay => simp [stay, @eq_comm _ z]

/-- A RELEASE_CARRIAGE offers every zone whose count has fallen, and grants a zone that it gave up itself or that had room without
waiters (R61, R62). -/
theorem offersDue_release {s : State} {c : Carriage} {z : Zone} {x : Context} (b : s.BooksAgree)
    (faulted : (s.ctx c).state = .faulted) (free : ((s.ctx c).claimedZones.contains z || s.freelyEntered z) = true)
    (h : s.RechecksLawful) :
    (setCtx c x (grantClaim z ((s.ctx c).claimedZones.foldl (fun s z => dropClaim z s) s))).OffersDue (s.ctx c).claimedZones := by
  have enrolled : (s.ctx c).state ≠ .unenrolled := by rw [faulted]; nofun
  have dropped := claimCount_dropClaims enrolled (b.contexts c).2 fun _ => b.counted
  obtain ⟨claims, eq⟩ := foldl_dropClaim_eq (s.ctx c).claimedZones s
  rw [eq] at dropped ⊢
  intro i
  have granted := claimCount_grantClaim z i.castSucc { s with occ := { s.occ with claims := claims } }
  have before := dropped i.castSucc
  by_cases claimed : (s.ctx c).claims i.castSucc = true
  · refine ⟨fun out => absurd ((mem_claimedZones enrolled _).2 claimed) out, fun full => ?_⟩
    rw [claimed, Bool.toNat_true] at before
    refine (show s.RecheckAt i from h i).full (hasRoom_mono (t := grantClaim z { s with occ := { s.occ with claims := claims } })
      rfl ?_ full)
    rw [granted]
    split
    next same => rw [same]; omega
    next => omega
  · rw [Bool.eq_false_iff.2 claimed, Bool.toNat_false, Nat.add_zero] at before
    by_cases here : z = i.castSucc
    · have unlisted : (s.ctx c).claimedZones.contains z = false := by
        rw [← Bool.not_eq_true, List.contains_iff_mem, mem_claimedZones enrolled, here]; exact claimed
      rw [unlisted, Bool.false_or, State.freelyEntered, Bool.and_eq_true, List.isEmpty_iff, here, waitList_castSucc] at free
      have unmarked : s.occ.recheck[i] = false := by rw [h i, free.2]; simp
      exact ⟨fun _ => recheckAt_of_empty (s := setCtx c x _) free.2 unmarked, fun _ => unmarked⟩
    · rw [if_neg here, before] at granted
      have room : (grantClaim z { s with occ := { s.occ with claims := claims } }).hasRoom i.castSucc = s.hasRoom i.castSucc :=
        hasRoom_of_claimCount rfl granted
      have law : (setCtx c x (grantClaim z { s with occ := { s.occ with claims := claims } })).RecheckAt i := by
        show s.occ.recheck[i] = ((grantClaim z { s with occ := { s.occ with claims := claims } }).hasRoom i.castSucc && _)
        rw [room]
        exact h i
      exact ⟨fun _ => law, law.full⟩

/-- The marks follow every whole operation, beside the books. -/
theorem keptRechecks : KeptWhole State.BooksAgree State.RechecksLawful where
  quiet _ _ same _ h := (SameZones.of_occ same.table same.occ).lawful h
  fed s t same _ h := by
    obtain ⟨b, occ⟩ := feed_occ t
    have fed : SameZones t (feed t) := ⟨(sameBooks_feed t).table, by rw [occ], by rw [occ], by rw [occ]⟩
    exact fed.lawful ((SameZones.of_occ same.table same.occ).lawful h)
  toDq _ _ _ _ h := h
  tx _ _ _ _ h := h
  sent s f rest _ _ _ h := by
    unfold DFrame.whenSent
    split
    · unfold markSent; split <;> exact h
    · exact h
  reexamine _ z _ h := rechecksLawful_reexamine z h
  endHold _ v r e _ h := rechecksLawful_endHold v r e h
  forward s h m _ room _ hs := by
    have occ := forwardMove_occ h m s
    have table := (sameBooks_forwardMove h m s).table
    by_cases entry : m.entry = true
    · rw [if_pos entry] at occ
      refine (SameZones.of_occ (s := grantClaim m.zone s) ?_ occ).lawful (rechecksLawful_grantClaim (room entry).2 hs)
      rw [table, startMove, if_pos entry]; rfl
    · rw [if_neg entry] at occ
      refine (SameZones.of_occ ?_ occ).lawful hs
      rw [table, startMove, if_neg entry]; rfl
  hold _ _ _ _ e _ _ zone shut _ _ hs := rechecksLawful_holdMove e zone shut hs
  commit s c r p _ _ _ _ _ _ _ h := rechecksLawful_releaseClaim _ ((sameZones_setCtx c _ s).lawful h)
  undo s c r p _ _ _ _ _ _ _ h := rechecksLawful_releaseClaim _ ((sameZones_setCtx c _ s).lawful h)
  stay _ _ _ _ _ _ _ _ _ _ _ h := h
  fault _ _ _ _ _ _ _ _ _ _ h := h
  late _ _ _ _ _ h := h
  setUp _ _ _ _ _ _ _ _ _ _ h := h
  enroll s c p tag limit _ _ _ _ empty _ h :=
    rechecksLawful_grantClaim (s := setCtx c _ s) empty ((sameZones_setCtx c _ s).lawful h)
  withdraw s c _ _ _ h := (sameZones_setCtx c _ _).lawful (rechecksLawful_releaseClaim _ h)
  release s c p faulted _ free b h := rechecksLawful_foldl_offer (offersDue_release b faulted free h)
  haltEntry _ _ h := rechecksLawful_haltEntry h
  govern _ _ h := h
  standby s _ _ h := by
    have withdrawn : ((List.finRange 64).foldl (withdrawZone .end_) s).RechecksLawful :=
      KeptWhole.foldl (fun _ z h => KeptWhole.foldl (P := State.RechecksLawful)
        (fun _ e h => rechecksLawful_endHold .withdrawn .end_ e h) _ h) _ h
    exact (sameZones_withGov _ _).lawful withdrawn
  floor _ _ _ _ _ h := h
  descriptor s i d unused _ _ h := fun z => by
    by_cases here : z = i
    · subst here
      simp only [State.descriptorInUse, Bool.or_eq_false_iff, Bool.not_eq_false'] at unused
      have empty := List.isEmpty_iff.1 unused.1.2
      refine recheckAt_of_empty (s := withDescriptor z d s) empty ?_
      show s.occ.recheck[z] = false
      rw [h z, empty]; simp
    · have place := placeAt_withDescriptor (z := z.castSucc) (fun eq => here (Fin.castSucc_injective _ eq)) d s
      have room : (withDescriptor i d s).hasRoom z.castSucc = s.hasRoom z.castSucc := by
        rw [State.hasRoom, place]; rfl
      rw [room]
      exact h z
  countTicks s t _ h := by
    have same := sameBooks_countTicks t s
    exact SameZones.lawful ⟨same.table, same.claims, same.waits, by unfold countTicks; dsimp only; split <;> rfl⟩ h
  blank s blank := fun z => by
    refine recheckAt_of_empty ?_ ?_ <;> rw [blank.occ] <;> simp [Occupancy.reset]

/-- Settles O39: a zone gains room by a release, which offers it, and gains or loses waiters by a hold, a pass or the end of a
hold, which mark it. -/
theorem stepKeepsRechecks : Obligations.StepKeepsRechecks := fun _ _ h b taken =>
  ((fineBooks.kept.and keptRechecks).step ⟨b, h⟩ taken).2

end Sys2Proof.Machine
end

section
/-! Laws of carriages, queues and the backlog that claims, holds and marks do not touch: such a law is kept, beside the books, by
every whole operation when it is kept by passes, ends of holds, arrivals, resolutions and halt entries. -/

namespace Sys2Proof.Machine

/-- Carriages, backlog, DQ and governor state stand, and UQ has not lost a frame. -/
structure SameMoves (s t : State) : Prop where
  carriages : t.carriages = s.carriages
  backlog : t.occ.backlog = s.occ.backlog
  dq : t.link.dq = s.link.dq
  txD : t.link.txD = s.link.txD
  state : t.gov.state = s.gov.state
  uq : s.link.uq.length ≤ t.link.uq.length

theorem SameMoves.refl (s : State) : SameMoves s s := ⟨rfl, rfl, rfl, rfl, rfl, Nat.le_refl _⟩

theorem SameMoves.trans {s t u : State} (h : SameMoves s t) (k : SameMoves t u) : SameMoves s u where
  carriages := k.carriages.trans h.carriages
  backlog := k.backlog.trans h.backlog
  dq := k.dq.trans h.dq
  txD := k.txD.trans h.txD
  state := k.state.trans h.state
  uq := h.uq.trans k.uq

theorem SameMoves.ctx {s t : State} (h : SameMoves s t) (c : Carriage) : t.ctx c = s.ctx c := by
  rw [State.ctx, h.carriages]; rfl

theorem SameMoves.of_quiet {s t : State} (h : Quiet s t) : SameMoves s t :=
  ⟨h.carriages, by rw [h.occ], h.dq, h.txD, h.state, h.uq⟩

theorem sameMoves_setRecheck (z : ZoneIndex) (b : Bool) (s : State) : SameMoves s (setRecheck z b s) :=
  ⟨rfl, rfl, rfl, rfl, rfl, Nat.le_refl _⟩

theorem sameMoves_dropClaim (z : Zone) (s : State) : SameMoves s (dropClaim z s) := ⟨rfl, rfl, rfl, rfl, rfl, Nat.le_refl _⟩

theorem sameMoves_grantClaim (z : Zone) (s : State) : SameMoves s (grantClaim z s) := ⟨rfl, rfl, rfl, rfl, rfl, Nat.le_refl _⟩

theorem SameMoves.setCtx {s t : State} (h : SameMoves s t) (c : Carriage) (x : Context) :
    SameMoves (setCtx c x s) (setCtx c x t) where
  carriages := by rw [setCtx_carriages, setCtx_carriages, h.carriages]
  backlog := h.backlog
  dq := h.dq
  txD := h.txD
  state := h.state
  uq := h.uq

/-- Outside GOVERNING an offer makes no pass (R110). -/
theorem sameMoves_offer {s : State} (h : s.gov.state ≠ .governing) (z : Zone) : SameMoves s (offer z s) := by
  unfold offer
  split
  · dsimp only
    split
    · exact sameMoves_setRecheck _ _ _
    · split
      · rw [reexamine_of_not_governing h]; exact sameMoves_setRecheck _ _ _
      · exact .refl s
  · exact .refl s

theorem sameMoves_releaseClaim {s : State} (h : s.gov.state ≠ .governing) (z : Zone) : SameMoves s (releaseClaim z s) :=
  (sameMoves_dropClaim z s).trans (sameMoves_offer (s := dropClaim z s) h z)

theorem sameMoves_servePending {s : State} (h : s.gov.state ≠ .governing) : SameMoves s (servePending s) :=
  KeptWhole.foldl (P := SameMoves s) (fun t z same => by
    split
    · rw [reexamine_of_not_governing (by rw [same.state]; exact h)]
      exact same.trans (sameMoves_setRecheck _ _ _)
    · exact same) _ (.refl s)

/-- A carriage comes to rest after a move, by a commit, an undo or a stay (R71, R72). -/
def Context.Rested (x y : Context) : Prop :=
  ∃ p z stack clearance, y = { x with
    position := p, zone := z, stack := stack, clearance := clearance, inFlight := none, state := .parked }

theorem Context.rested_committed (x : Context) (r : InFlight) (p : Point) (g : Level) : x.Rested (x.committed r p g) :=
  ⟨_, _, _, _, rfl⟩

theorem Context.rested_restedAt (x : Context) (p : Point) : x.Rested (x.restedAt p) := ⟨_, _, _, _, rfl⟩

/-- The law is kept, where the books agree, by what touches it. -/
structure KeptBeside (P : State → Prop) : Prop where
  same : ∀ s t, SameMoves s t → P s → P t
  toDq : ∀ s f, f.isDriveMove = false → P s → P { s with link := { s.link with dq := s.link.dq ++ [f] } }
  tx : ∀ s x, (s.link.txD = .frame → s.link.dq = []) → P s → P { s with link := { s.link with txD := x } }
  sent : ∀ s f rest, s.link.txD = .frame → s.link.dq = f :: rest → P s →
    P (f.whenSent { s with link := { s.link with txD := .idle, dq := rest }, wireD := s.wireD ++ [.frame f.bytes] })
  shorterUq : ∀ s t, Still s t → P s → P (feed t)
  pass : ∀ s z e h rest, s.BooksAgree → s.passAllowed z = true → s.occ.pool[e] = some h → P s → P (pass z e h rest s)
  endHold : ∀ s v r e h, s.BooksAgree → s.occ.pool[e] = some h → P s → P (endHold v r e s)
  forward : ∀ s h m, Admits s h m → s.BooksAgree → P s → P (forwardMove h m s)
  hold : ∀ s h m z e, Admits s h m → s.BooksAgree → P s → P (holdMove h m z e s)
  rest : ∀ s c r y, s.BooksAgree → (s.ctx c).state = .moving → (s.ctx c).inFlight = some r → r.sent = true → (s.ctx c).Rested y →
    P s → P (setCtx c y s)
  fault : ∀ s c r k q, s.BooksAgree → (s.ctx c).state = .moving → (s.ctx c).inFlight = some r → r.sent = true →
    (k = .stray → q.isSome) → P s → P (setCtx c ((s.ctx c).faultedBy r k q) s)
  late : ∀ s c p, (s.ctx c).state = .faulted → P s → P (setCtx c { s.ctx c with reported := some p } s)
  setUp : ∀ s c en sc tu off tag, setupInRange en sc tu tag = true → P s → P (setCtx c ((s.ctx c).setUp en sc tu off tag) s)
  enroll : ∀ s c p z tag limit, s.BooksAgree → (s.ctx c).state = .unenrolled → limit ≤ 255 → P s →
    P (setCtx c (.enrolledAt p z tag limit) s)
  withdraw : ∀ s c, (s.ctx c).state = .parked → (s.ctx c).verdictOwed = false → P s → P (setCtx c .unenrolled s)
  release : ∀ s c p z, (s.ctx c).state = .faulted → P s → P (setCtx c ((s.ctx c).releasedAt p z) s)
  haltEntry : ∀ s, s.BooksAgree → P s → P (haltEntry s)
  govern : ∀ s, P s → P (withGov { s.gov with state := .governing } s)
  standby : ∀ s, (∀ c, (s.ctx c).state ≠ .moving ∧ (s.ctx c).state ≠ .held) → P s → P (withGov { s.gov with state := .standby } s)
  countTicks : ∀ s t, P s → P (countTicks t s)
  blank : ∀ s, Blank s → P s

namespace KeptBeside

variable {P : State → Prop} (k : KeptBeside P)
include k

theorem passLoop (z : ZoneIndex) (n : Nat) {s : State} (b : s.BooksAgree) (hs : P s) : P (passLoop z n s) := by
  induction n generalizing s with
  | zero => exact hs
  | succ n ih =>
    unfold Machine.passLoop
    split
    next allowed =>
      split
      next => exact hs
      next e rest waiting =>
        obtain ⟨h, used, -⟩ := (b.lists z).2 e (by rw [waiting]; exact .head _)
        have governing := allowed
        simp only [State.passAllowed, Bool.and_eq_true, decide_eq_true_eq] at governing
        rw [show s.occ.pool[e] = some h from used]
        exact ih (books_alike (sameBooks_pass z e h rest s) (fineBooks.passed s z e h rest governing.1.1.1.1 waiting used b))
          (k.pass s z e h rest b allowed used hs)
    next => exact hs

theorem reexamine (z : ZoneIndex) {s : State} (b : s.BooksAgree) (hs : P s) : P (reexamine z s) :=
  k.same _ _ (sameMoves_setRecheck _ _ _) (k.passLoop z _ b hs)

theorem offer (z : Zone) {s : State} (b : s.BooksAgree) (hs : P s) : P (offer z s) := by
  unfold Machine.offer
  split
  · dsimp only
    split
    · exact k.same _ _ (sameMoves_setRecheck _ _ _) hs
    · split
      · exact k.reexamine _ b hs
      · exact hs
  · exact hs

theorem endsHold (v : Verdict) (r : Reason) (e : Fin 16) {s : State} (b : s.BooksAgree) (hs : P s) : P (Machine.endHold v r e s) := by
  cases used : s.occ.pool[e] with
  | none => unfold Machine.endHold; rw [used]; exact hs
  | some h => exact k.endHold s v r e h b used hs

theorem withdrawZone (r : Reason) (z : ZoneIndex) {s : State} (hs : s.BooksAgree ∧ P s) :
    (withdrawZone r s z).BooksAgree ∧ P (withdrawZone r s z) :=
  KeptWhole.foldl (P := fun s => s.BooksAgree ∧ P s) (fun _ e h => ⟨fineBooks.endHold _ r e h.1, k.endsHold _ r e h.1 h.2⟩) _ hs

/-- The law is kept by every whole operation, beside the books. -/
theorem kept : KeptWhole State.BooksAgree P where
  quiet s t same _ := k.same s t (.of_quiet same)
  fed s t same _ := k.shorterUq s t same
  toDq s f other _ := k.toDq s f other
  tx s x free _ := k.tx s x free
  sent s f rest tx dq _ := k.sent s f rest tx dq
  reexamine _ z := k.reexamine z
  endHold _ v r e := k.endsHold v r e
  forward s h m admits _ b := k.forward s h m admits b
  hold s h m z e admits _ _ _ _ b := k.hold s h m z e admits b
  commit s c r p moving flight sent entry floor final b hs := by
    have rested := k.rest s c r _ b moving flight sent 
      (Context.rested_committed _ r p (s.placeAt r.targetZone).guardLevel) hs
    exact k.offer _ (fineBooks.commit s c r p moving flight entry floor final b) (k.same _ _ (sameMoves_dropClaim _ _) rested)
  undo s c r p moving flight sent entry floor final b hs := by
    have rested := k.rest s c r _ b moving flight sent (Context.rested_restedAt _ p) hs
    exact k.offer _ (fineBooks.undo s c r p moving flight entry (.inr ⟨floor, final.trans (b.origin flight)⟩) b)
      (k.same _ _ (sameMoves_dropClaim _ _) rested)
  stay s c r p moving flight sent _ _ _ b := k.rest s c r _ b moving flight sent (Context.rested_restedAt _ p)
  fault s c r cause q moving flight sent stray b := k.fault s c r cause q b moving flight sent stray
  late s c p faulted _ := k.late s c p faulted
  setUp s c en sc tu off tag _ ranges _ := k.setUp s c en sc tu off tag ranges
  enroll s c p tag limit absent _ few _ _ b hs := k.same _ _ (sameMoves_grantClaim _ _) (k.enroll s c p _ tag limit b absent few hs)
  withdraw s c parked unowed b hs := by
    have none : (dropClaim (s.ctx c).zone s).HoldsNothing c := b.holdsNothing (by rw [parked]; nofun)
    rw [releaseClaim, ← offer_setCtx_unenrolled _ none]
    exact k.offer _ (fineBooks.withdraw s c parked b)
      (k.same _ _ ((sameMoves_dropClaim _ _).setCtx c _) (k.withdraw s c parked unowed hs))
  release s c p faulted floor _ b hs := by
    have books := fineBooks.release s c p faulted floor b
    have released : P (setCtx c ((s.ctx c).releasedAt p (s.lookup p))
        (grantClaim (s.lookup p) ((s.ctx c).claimedZones.foldl (fun s z => dropClaim z s) s))) := by
      obtain ⟨claims, eq⟩ := foldl_dropClaim_eq (s.ctx c).claimedZones s
      rw [eq]
      have moved : SameMoves s (grantClaim (s.lookup p) { s with occ := { s.occ with claims := claims } }) :=
        ⟨rfl, rfl, rfl, rfl, rfl, Nat.le_refl _⟩
      exact k.same _ _ (moved.setCtx c _) (k.release s c p _ faulted hs)
    exact (KeptWhole.foldl (P := fun s => s.BooksAgree ∧ P s) (fun _ z h => ⟨fineBooks.offer z h.1, k.offer z h.1 h.2⟩) _
      ⟨books, released⟩).2
  haltEntry s b := k.haltEntry s b
  govern s _ := k.govern s
  standby s idle b hs := by
    obtain ⟨books, withdrawn⟩ := KeptWhole.foldl (P := fun s => s.BooksAgree ∧ P s) (f := Machine.withdrawZone .end_)
      (fun _ z h => k.withdrawZone _ z h) (List.finRange 64) ⟨b, hs⟩
    have none : ((List.finRange 64).foldl (Machine.withdrawZone .end_) s).NoneMoving :=
      KeptWhole.foldl (P := State.NoneMoving) (fun _ _ none =>
        KeptWhole.foldl (P := State.NoneMoving) (fun _ _ none => noneMoving_endHold _ _ _ none) _ none) _
        (noneMoving_of_anyMoving idle)
    have empty := fun z : ZoneIndex => fineBooks.withdrawAll_waits .end_ (List.finRange 64) b z (.inl (List.mem_finRange z))
    exact k.standby _ (fun c => ⟨none c, books.noneHeld empty c⟩) withdrawn
  floor s box _ _ _ := k.same s _ ⟨rfl, rfl, rfl, rfl, rfl, Nat.le_refl _⟩
  descriptor s i d _ _ _ := k.same s _ ⟨rfl, rfl, rfl, rfl, rfl, Nat.le_refl _⟩
  countTicks s t _ := k.countTicks s t
  blank s := k.blank s

/-- Every step keeps the law, beside the books. -/
theorem step {s t : State} (b : s.BooksAgree) (hs : P s) (h : Machine.step s = .next t) : P t :=
  ((fineBooks.kept.and k.kept).step ⟨b, hs⟩ h).2

end KeptBeside

/-! ### Halt entries without a queue law -/

/-- A halt entry keeps a law that the purge of DQ, and the undo of one move with its report, keep: the releases are made in HALTED,
where no zone is passed (R78, R110, R152). -/
theorem haltEntry_keeps_of {P : State → Prop} (same : ∀ s t, SameMoves s t → P s → P t)
    (purged : ∀ s, P s → P (haltAndPurge s))
    (undone : ∀ s t c r, (s.ctx c).state = .moving → SameMoves (setCtx c { s.ctx c with inFlight := none, state := .parked } s) t →
      P s → P (appendRecord (cancelledRecord c r) t)) {s : State} (hs : P s) : P (haltEntry s) := by
  have undo : ∀ t f, t.gov.state ≠ .governing ∧ P t → (undoPurged t f).gov.state ≠ .governing ∧ P (undoPurged t f) := by
    intro t f ⟨halted, ht⟩
    refine ⟨by rw [(calm_undoPurged halted f).sameGov]; exact halted, ?_⟩
    unfold undoPurged
    split
    next h _ _ =>
      split
      next => exact ht
      next r record =>
        obtain ⟨moving, -⟩ := Context.movingRecord_eq_some record
        dsimp only
        split
        · exact undone t _ h.carriage r moving (sameMoves_releaseClaim (s := setCtx h.carriage _ t) halted _) ht
        · exact undone t _ h.carriage r moving (.refl _) ht
    next => exact ht
  have folded := KeptWhole.foldl (P := fun t => t.gov.state ≠ .governing ∧ P t) undo s.link.purged (s := haltAndPurge s)
    ⟨nofun, purged s hs⟩
  unfold haltEntry
  refine same _ _ (.of_quiet (quiet_evalPauses _)) ?_
  split
  · exact folded.2
  · exact same _ _ (sameMoves_servePending folded.1) folded.2

end Sys2Proof.Machine
end

section
/-! The backlog and the forms of the contexts: a carriage that owes a verdict is PARKED, and each context carries the fields of its
state. -/

namespace Sys2Proof.Machine

/-! ### The backlog -/

/-- A carriage that owes no verdict has no record in the backlog. -/
theorem State.BacklogLawful.unlisted {s : State} (h : s.BacklogLawful) {c : Carriage} (unowed : (s.ctx c).verdictOwed = false) :
    c ∉ s.occ.backlog.map (·.carriage) := fun mem => by
  rw [(h.2.2 c).2 mem] at unowed
  cases unowed

/-- A carriage that is not PARKED owes no verdict (R119). -/
theorem State.BacklogLawful.unowed {s : State} (h : s.BacklogLawful) {c : Carriage} (moves : (s.ctx c).state ≠ .parked) :
    (s.ctx c).verdictOwed = false := by
  rw [← Bool.not_eq_true, h.2.2 c]
  intro mem
  obtain ⟨r, listed, rfl⟩ := List.mem_map.1 mem
  exact moves (h.2.1 r listed)

/-- The law rests on states and marks of the carriages and on the backlog. -/
theorem backlogLawful_congr {s t : State} (backlog : t.occ.backlog = s.occ.backlog)
    (ctx : ∀ c, (t.ctx c).state = (s.ctx c).state ∧ (t.ctx c).verdictOwed = (s.ctx c).verdictOwed) (h : s.BacklogLawful) :
    t.BacklogLawful := by
  unfold State.BacklogLawful
  rw [backlog]
  refine ⟨h.1, fun r listed => ?_, fun c => ?_⟩
  · rw [(ctx r.carriage).1]; exact h.2.1 r listed
  · rw [(ctx c).2]; exact h.2.2 c

/-- A carriage that owes nothing may change, if it still owes nothing. -/
theorem backlogLawful_setCtx {s : State} {c : Carriage} {y : Context} (before : (s.ctx c).verdictOwed = false)
    (after : y.verdictOwed = false) (h : s.BacklogLawful) : (setCtx c y s).BacklogLawful := by
  have free := h.unlisted before
  refine ⟨h.1, fun r listed => ?_, fun d => ?_⟩
  · have other : r.carriage ≠ c := fun eq => free (eq ▸ List.mem_map_of_mem listed)
    rw [ctx_setCtx_ne other]
    exact h.2.1 r listed
  · rw [ctx_setCtx]
    split
    next eq => rw [after, eq]; exact ⟨nofun, fun mem => absurd mem free⟩
    next => exact h.2.2 d

theorem backlogLawful_feed {s : State} (h : s.BacklogLawful) : (feed s).BacklogLawful := by
  have all : ∀ (n : Nat) (t : State), t.BacklogLawful → (feedLoop n t).BacklogLawful := by
    intro n
    induction n with
    | zero => exact fun t ht => ht
    | succ n ih =>
      intro t ht
      unfold feedLoop
      split
      next => exact ht
      next r rest some =>
        split
        next =>
          obtain ⟨nodup, parked, owed⟩ := ht
          rw [some, List.map_cons, List.nodup_cons] at nodup
          rw [some] at parked
          refine ih _ ?_
          have ctx : ∀ c, (modifyCtx r.carriage (fun x => { x with verdictOwed := false })
              (pushUq r.frame { t with occ := { t.occ with backlog := rest } })).ctx c =
              if c = r.carriage then { t.ctx r.carriage with verdictOwed := false } else t.ctx c := fun c => by
            rw [ctx_modifyCtx, ctx_pushUq, ctx_pushUq]; rfl
          unfold State.BacklogLawful
          rw [show (modifyCtx r.carriage (fun x => { x with verdictOwed := false })
              (pushUq r.frame { t with occ := { t.occ with backlog := rest } })).occ.backlog = rest from
            congrArg Occupancy.backlog (evalPauses_occ _)]
          refine ⟨nodup.2, fun q listed => ?_, fun c => ?_⟩
          · rw [ctx]
            split
            · exact parked r (.head _)
            · exact parked q (.tail _ listed)
          · rw [ctx]
            split
            next eq => rw [eq]; exact ⟨nofun, fun mem => absurd mem nodup.1⟩
            next other =>
              rw [owed c, some, List.map_cons, List.mem_cons]
              exact ⟨fun mem => mem.resolve_left other, .inr⟩
        next => exact ht
  exact all _ s h

/-- A report for a PARKED carriage that owes nothing (R119). -/
theorem backlogLawful_appendRecord {r : BacklogRecord} {s : State} (parked : (s.ctx r.carriage).state = .parked)
    (unowed : (s.ctx r.carriage).verdictOwed = false) (h : s.BacklogLawful) : (appendRecord r s).BacklogLawful := by
  refine backlogLawful_feed ?_
  have free := h.unlisted unowed
  have ctx : ∀ c, (modifyCtx r.carriage (fun x => { x with verdictOwed := true })
      { s with occ := { s.occ with backlog := s.occ.backlog ++ [r] } }).ctx c =
      if c = r.carriage then { s.ctx r.carriage with verdictOwed := true } else s.ctx c := fun c => ctx_modifyCtx _ _ _ _
  unfold State.BacklogLawful
  rw [show (modifyCtx r.carriage (fun x => { x with verdictOwed := true })
      { s with occ := { s.occ with backlog := s.occ.backlog ++ [r] } }).occ.backlog = s.occ.backlog ++ [r] from rfl, List.map_append]
  refine ⟨List.nodup_append.2 ⟨h.1, List.nodup_singleton _, fun c mem d one => ?_⟩, fun q listed => ?_, fun c => ?_⟩
  · rw [List.mem_singleton.1 one]
    rintro rfl
    exact free mem
  · rw [ctx]
    split
    · exact parked
    · rcases List.mem_append.1 listed with old | new
      · exact h.2.1 q old
      · exact absurd (congrArg _ (List.mem_singleton.1 new)) ‹_›
  · rw [ctx, List.mem_append]
    split
    next eq => rw [eq]; exact ⟨fun _ => .inr (.head _), fun _ => rfl⟩
    next other =>
      rw [h.2.2 c]
      exact ⟨.inl, fun mem => mem.resolve_right fun new => other (List.mem_singleton.1 new)⟩

/-- With the backlog empty, no carriage may owe a verdict. -/
theorem backlogLawful_of_nil {s : State} (none : s.occ.backlog = []) (unowed : ∀ c, (s.ctx c).verdictOwed = false) :
    s.BacklogLawful := by
  unfold State.BacklogLawful
  rw [none]
  exact ⟨List.nodup_nil, nofun, fun c => by rw [unowed c]; exact ⟨nofun, nofun⟩⟩

/-! ### What moves leave of the contexts and the queues -/

theorem forwardMove_link (h : Header) (m : Admitted) (s : State) : (forwardMove h m s).link =
    (pushDq (.driveMove (s.effectiveHeader h) m.target m.speed) s).link := by
  unfold forwardMove forward
  cases m.entry <;> rfl

theorem ctx_forwardMove (h : Header) (m : Admitted) (s : State) (c : Carriage) :
    (forwardMove h m s).ctx c = (setCtx h.carriage (s.forwardedCtx h m) s).ctx c := by
  have eq : (forwardMove h m s).carriages = (setCtx h.carriage (s.forwardedCtx h m)
      (pushDq (.driveMove (s.effectiveHeader h) m.target m.speed) s)).carriages := by
    unfold forwardMove forward
    show (if m.entry = true then grantClaim m.zone _ else _).carriages = _
    split <;> rfl
  rw [State.ctx, eq, setCtx_carriages, pushDq, evalPauses_carriages]
  rfl

theorem holdMove_link (h : Header) (m : Admitted) (z : ZoneIndex) (e : Fin 16) (s : State) : (holdMove h m z e s).link = s.link :=
  evalHoldWarn_link true _

theorem ctx_holdMove (h : Header) (m : Admitted) (z : ZoneIndex) (e : Fin 16) (s : State) (c : Carriage) :
    (holdMove h m z e s).ctx c = (setCtx h.carriage { s.ctx h.carriage with state := .held, holdRef := some e } s).ctx c := by
  rw [State.ctx, holdMove, takeEntry, evalHoldWarn_carriages]
  rfl

theorem holdMove_backlog (h : Header) (m : Admitted) (z : ZoneIndex) (e : Fin 16) (s : State) :
    (holdMove h m z e s).occ.backlog = s.occ.backlog := by
  rw [holdMove, takeEntry, evalHoldWarn_taken]
  rfl

/-- The state in which a pass reports (R111). -/
def passUnreported (z : ZoneIndex) (e : Fin 16) (h : HoldEntry) (rest : List (Fin 16)) (s : State) : State :=
  freeEntry e (grantClaim z.castSucc (setCtx h.carriage ((s.ctx h.carriage).passed h)
    (pushDq h.driveMove (setWaits z rest s))))

theorem pass_eq (z : ZoneIndex) (e : Fin 16) (h : HoldEntry) (rest : List (Fin 16)) (s : State) :
    pass z e h rest s = appendRecord (h.report .released .none) (passUnreported z e h rest s) := by
  unfold pass passUnreported
  dsimp only
  rw [modifyCtx, ctx_pushDq]
  rfl

theorem passUnreported_link (z : ZoneIndex) (e : Fin 16) (h : HoldEntry) (rest : List (Fin 16)) (s : State) :
    (passUnreported z e h rest s).link = (pushDq h.driveMove (setWaits z rest s)).link := evalHoldWarn_link false _

theorem ctx_passUnreported (z : ZoneIndex) (e : Fin 16) (h : HoldEntry) (rest : List (Fin 16)) (s : State) (c : Carriage) :
    (passUnreported z e h rest s).ctx c = (setCtx h.carriage ((s.ctx h.carriage).passed h) s).ctx c := by
  rw [passUnreported, ctx_freeEntry, State.ctx, grantClaim_carriages, setCtx_carriages, pushDq, evalPauses_carriages]
  rfl

theorem passUnreported_backlog (z : ZoneIndex) (e : Fin 16) (h : HoldEntry) (rest : List (Fin 16)) (s : State) :
    (passUnreported z e h rest s).occ.backlog = s.occ.backlog := by
  rw [passUnreported, freeEntry, evalHoldWarn_freed]
  show (pushDq _ (setWaits z rest s)).occ.backlog = _
  rw [pushDq_occ]
  rfl

/-- The state in which the end of a hold is reported (R113, R115). -/
def endUnreported (e : Fin 16) (h : HoldEntry) (s : State) : State :=
  setCtx h.carriage { s.ctx h.carriage with state := .parked, holdRef := none }
    (freeEntry e (setWaits h.zone (s.occ.waits[h.zone].erase e) s))

theorem endHold_eq (v : Verdict) (r : Reason) {e : Fin 16} {h : HoldEntry} {s : State} (used : s.occ.pool[e] = some h) :
    endHold v r e s = appendRecord (h.report v r) (endUnreported e h s) ∨
    endHold v r e s = setRecheck h.zone false (appendRecord (h.report v r) (endUnreported e h s)) := by
  have eq : modifyCtx h.carriage (fun x => { x with state := .parked, holdRef := none })
      (freeEntry e (setWaits h.zone (s.occ.waits[h.zone].erase e) s)) = endUnreported e h s := by
    rw [modifyCtx, ctx_freeEntry]; rfl
  unfold endHold
  rw [used]
  dsimp only
  rw [eq]
  split
  · exact .inr rfl
  · exact .inl rfl

theorem endUnreported_link (e : Fin 16) (h : HoldEntry) (s : State) : (endUnreported e h s).link = s.link :=
  evalHoldWarn_link false _

theorem ctx_endUnreported (e : Fin 16) (h : HoldEntry) (s : State) (c : Carriage) : (endUnreported e h s).ctx c =
    (setCtx h.carriage { s.ctx h.carriage with state := .parked, holdRef := none } s).ctx c := by
  rw [endUnreported, ctx_setCtx, ctx_setCtx, ctx_freeEntry]
  rfl

theorem endUnreported_backlog (e : Fin 16) (h : HoldEntry) (s : State) : (endUnreported e h s).occ.backlog = s.occ.backlog := by
  rw [endUnreported, setCtx_occ, freeEntry, evalHoldWarn_freed]
  rfl

/-! ### The backlog is kept -/

/-- The backlog is fed and lawful. -/
def State.BacklogKept (s : State) : Prop := s.BacklogFed ∧ s.BacklogLawful

theorem backlogKept_of {s t : State} (backlog : t.occ.backlog = s.occ.backlog) (uq : s.link.uq.length ≤ t.link.uq.length)
    (ctx : ∀ c, (t.ctx c).state = (s.ctx c).state ∧ (t.ctx c).verdictOwed = (s.ctx c).verdictOwed) (h : s.BacklogKept) :
    t.BacklogKept := ⟨backlogFed_congr backlog uq h.1, backlogLawful_congr backlog ctx h.2⟩

/-- A change that leaves a carriage's state and mark leaves every carriage's. -/
theorem ctx_setCtx_same {s : State} {c : Carriage} {y : Context} (state : y.state = (s.ctx c).state)
    (owed : y.verdictOwed = (s.ctx c).verdictOwed) (d : Carriage) :
    ((setCtx c y s).ctx d).state = (s.ctx d).state ∧ ((setCtx c y s).ctx d).verdictOwed = (s.ctx d).verdictOwed := by
  rw [ctx_setCtx]
  split
  next eq => rw [eq]; exact ⟨state, owed⟩
  next => exact ⟨rfl, rfl⟩

theorem backlogKept_setCtx_same {s : State} {c : Carriage} {y : Context} (state : y.state = (s.ctx c).state)
    (owed : y.verdictOwed = (s.ctx c).verdictOwed) (h : s.BacklogKept) : (setCtx c y s).BacklogKept :=
  backlogKept_of (s := s) rfl (Nat.le_refl _) (ctx_setCtx_same state owed) h

/-- A carriage that owes nothing changes, and with it no queue. -/
theorem backlogKept_setCtx {s t : State} {c : Carriage} {y : Context} (before : (s.ctx c).verdictOwed = false)
    (after : y.verdictOwed = false) (backlog : t.occ.backlog = s.occ.backlog) (uq : s.link.uq.length ≤ t.link.uq.length)
    (ctx : ∀ d, t.ctx d = (setCtx c y s).ctx d) (h : s.BacklogKept) : t.BacklogKept :=
  ⟨backlogFed_congr backlog uq h.1,
    backlogLawful_congr (s := setCtx c y s) backlog (fun d => by rw [ctx]; exact ⟨rfl, rfl⟩) (backlogLawful_setCtx before after h.2)⟩

theorem backlogKept_markSent (h : Header) {s : State} (hs : s.BacklogKept) : (markSent h s).BacklogKept := by
  unfold markSent
  split
  · exact hs
  next r _ =>
    exact backlogKept_setCtx_same rfl rfl hs

theorem backlogLawful_pass {z : ZoneIndex} {e : Fin 16} {h : HoldEntry} {rest : List (Fin 16)} {s : State}
    (allowed : s.passAllowed z = true) (k : s.BacklogKept) :
    (pass z e h rest s).BacklogLawful := by
  obtain ⟨fed, lawful⟩ := k
  simp only [State.passAllowed, Bool.and_eq_true] at allowed
  have opened : s.uqOpen = true := allowed.2
  have none : s.occ.backlog = [] := fed.resolve_right (by rw [opened]; nofun)
  have unowed : ∀ c, (s.ctx c).verdictOwed = false := fun c => by
    rw [← Bool.not_eq_true, lawful.2.2 c, none]
    nofun
  have stillOpen : (passUnreported z e h rest s).uqOpen = true := by
    rw [← opened, State.uqOpen, State.freeUq, passUnreported_link, pushDq_uq]
    rfl
  have stillNone : (passUnreported z e h rest s).occ.backlog = [] := (passUnreported_backlog z e h rest s).trans none
  rw [pass_eq, appendRecord_of_open _ stillOpen stillNone]
  refine backlogLawful_of_nil ?_ fun c => ?_
  · exact (congrArg Occupancy.backlog (evalPauses_occ _)).trans stillNone
  · rw [ctx_modifyCtx, ctx_pushUq, ctx_pushUq]
    split
    · rfl
    next other =>
      have apart : c ≠ h.carriage := other
      rw [ctx_modifyCtx, if_neg other, ctx_passUnreported, ctx_setCtx_ne apart]
      exact unowed c

/-- The backlog is kept by every whole operation, beside the books. -/
theorem keptBacklog : KeptBeside State.BacklogKept where
  same s t same := backlogKept_of same.backlog same.uq fun c => by rw [same.ctx]; exact ⟨rfl, rfl⟩
  toDq _ _ _ h := h
  tx _ _ _ h := h
  sent s f rest _ _ h := by
    have popped : State.BacklogKept { s with link := { s.link with txD := .idle, dq := rest }, wireD := s.wireD ++ [.frame f.bytes] } := h
    unfold DFrame.whenSent
    split
    · exact backlogKept_markSent _ popped
    · exact popped
  shorterUq s t same h :=
    ⟨backlogFed_feed t, backlogLawful_feed (backlogLawful_congr (by rw [same.occ]) (fun c => by rw [same.ctx]; exact ⟨rfl, rfl⟩) h.2)⟩
  pass s z e h rest _ allowed _ hs :=
    ⟨(internals_pass allowed e h rest).keeps (fun _ _ fed i => i.backlogFed fed) hs.1,
      backlogLawful_pass allowed hs⟩
  endHold s v r e h b used hs := by
    refine ⟨(internals_endHold v r e s).keeps (fun _ _ fed i => i.backlogFed fed) hs.1, ?_⟩
    have held := (b.entries e h used).2.1
    have unowed := hs.2.unowed (c := h.carriage) (by rw [held]; nofun)
    have ended : (endUnreported e h s).BacklogLawful :=
      backlogLawful_congr (s := setCtx h.carriage { s.ctx h.carriage with state := .parked, holdRef := none } s)
        (endUnreported_backlog e h s) (fun c => by rw [ctx_endUnreported]; exact ⟨rfl, rfl⟩) (backlogLawful_setCtx unowed unowed hs.2)
    have reported : (appendRecord (h.report v r) (endUnreported e h s)).BacklogLawful := by
      have self : (endUnreported e h s).ctx h.carriage = { s.ctx h.carriage with state := .parked, holdRef := none } :=
        ctx_setCtx_self _ _ _
      refine backlogLawful_appendRecord ?_ ?_ ended
      · exact congrArg Context.state self
      · exact (congrArg Context.verdictOwed self).trans unowed
    rcases endHold_eq v r used with eq | eq <;> rw [eq] <;> exact reported
  forward s h m admits _ hs := by
    refine backlogKept_setCtx admits.unowed (y := s.forwardedCtx h m) admits.unowed ?_ ?_ (ctx_forwardMove h m s) hs
    · rw [forwardMove_occ]; split <;> rfl
    · rw [forwardMove_link, pushDq_uq]
  hold s h m z e admits _ hs := by
    refine backlogKept_setCtx admits.unowed (y := { s.ctx h.carriage with state := .held, holdRef := some e }) admits.unowed
      (holdMove_backlog h m z e s) ?_ (ctx_holdMove h m z e s) hs
    rw [holdMove_link]
  rest s c r y _ moving _ _ rested hs := by
    obtain ⟨p, z, stack, clearance, eq⟩ := rested
    have unowed := hs.2.unowed (c := c) (by rw [moving]; nofun)
    have after : y.verdictOwed = (s.ctx c).verdictOwed := by rw [eq]
    exact backlogKept_setCtx (y := y) unowed (after.trans unowed) rfl (Nat.le_refl _) (fun _ => rfl) hs
  fault s c r k q _ moving _ _ _ hs := by
    have unowed := hs.2.unowed (c := c) (by rw [moving]; nofun)
    exact backlogKept_setCtx (y := (s.ctx c).faultedBy r k q) unowed unowed rfl (Nat.le_refl _) (fun _ => rfl) hs
  late s c p faulted hs := by
    have unowed := hs.2.unowed (c := c) (by rw [faulted]; nofun)
    exact backlogKept_setCtx (y := { s.ctx c with reported := some p }) unowed unowed rfl (Nat.le_refl _) (fun _ => rfl) hs
  setUp s c en sc tu off tag _ hs := by
    exact backlogKept_setCtx_same rfl rfl hs
  enroll s c p z tag limit _ absent _ hs := by
    have unowed := hs.2.unowed (c := c) (by rw [absent]; nofun)
    exact backlogKept_setCtx (y := .enrolledAt p z tag limit) unowed rfl rfl (Nat.le_refl _) (fun _ => rfl) hs
  withdraw s c _ unowed hs := backlogKept_setCtx (y := .unenrolled) unowed rfl rfl (Nat.le_refl _) (fun _ => rfl) hs
  release s c p z faulted hs := by
    have unowed := hs.2.unowed (c := c) (by rw [faulted]; nofun)
    exact backlogKept_setCtx (y := (s.ctx c).releasedAt p z) unowed unowed rfl (Nat.le_refl _) (fun _ => rfl) hs
  haltEntry s _ hs := by
    refine haltEntry_keeps_of (P := State.BacklogKept)
      (fun s t same => backlogKept_of same.backlog same.uq fun c => by rw [same.ctx]; exact ⟨rfl, rfl⟩)
      (fun s h => h) (fun s t c r moving same h => ⟨backlogFed_feed _, ?_⟩) hs
    have unowed := h.2.unowed (c := c) (by rw [moving]; nofun)
    have self : t.ctx c = { s.ctx c with inFlight := none, state := .parked } := by rw [same.ctx, ctx_setCtx_self]
    refine backlogLawful_appendRecord (congrArg Context.state self) ((congrArg Context.verdictOwed self).trans unowed) ?_
    exact backlogLawful_congr same.backlog (fun d => by rw [same.ctx]; exact ⟨rfl, rfl⟩)
      (backlogLawful_setCtx (y := { s.ctx c with inFlight := none, state := .parked }) unowed unowed h.2)
  govern _ h := h
  standby _ _ h := h
  countTicks s t h := by
    refine backlogKept_of (s := s) ?_ (Nat.le_refl _) (fun c => ?_) h
    · unfold countTicks; dsimp only; split <;> rfl
    · unfold countTicks State.ctx
      dsimp only
      split
      · simp only [Fin.getElem_fin, Vector.getElem_map]
        unfold Context.countDeadline
        split <;> exact ⟨rfl, rfl⟩
      · exact ⟨rfl, rfl⟩
  blank s blank := by
    have none : s.occ.backlog = [] := by rw [blank.occ]; rfl
    exact ⟨.inl none, backlogLawful_of_nil none fun c => by rw [State.ctx, blank.carriages]; simp [Context.unenrolled]⟩

/-! ### The forms of the contexts -/

/-- What a context says of faults, transform and limits fits its state (R28, R54, R68, R73). -/
structure Context.Sound (x : Context) : Prop where
  whole : x.state ≠ .faulted → x.faultCause = none ∧ x.reported = none
  faulted : x.state = .faulted → x.faultCause.isSome ∧ (x.faultCause = some .stray → x.reported.isSome)
  transform : x.TransformFits
  limit : x.moveLimit ≤ 255
  deadline : ∀ r ∈ x.inFlight, ∀ n ∈ r.deadline, 1 ≤ n ∧ n ≤ 255

/-- Every context is sound. -/
def State.Sound (s : State) : Prop := ∀ c, (s.ctx c).Sound

theorem Context.sound_unenrolled : Context.unenrolled.Sound :=
  ⟨fun _ => ⟨rfl, rfl⟩, nofun, by unfold Context.TransformFits; decide, by decide, nofun⟩

/-- Books, backlog and soundness together say what R54 says of a context. -/
theorem contextsLawful_of {s : State} (b : s.BooksAgree) (k : s.BacklogLawful) (sound : s.Sound) : s.ContextsLawful := fun c => by
  obtain ⟨whole, faulted, transform, limit, deadline⟩ := sound c
  refine ⟨?_, (b.contexts c).2, transform, limit, deadline⟩
  have fits := (b.contexts c).1
  have unowed := k.unowed (c := c)
  unfold Context.FieldsFit at fits
  unfold Context.OptionalsFit
  cases state : (s.ctx c).state <;> simp only [state] at fits whole faulted unowed ⊢
  case unenrolled => exact fits
  case parked => exact ⟨fits.1, fits.2, whole nofun⟩
  case moving => exact ⟨fits.1, fits.2, (whole nofun).1, (whole nofun).2, unowed nofun⟩
  case held => exact ⟨fits.1, fits.2, (whole nofun).1, (whole nofun).2, unowed nofun⟩
  case faulted => exact ⟨fits.1, fits.2, (faulted trivial).1, (faulted trivial).2, unowed nofun⟩

/-- Lawful contexts are sound. -/
theorem sound_of_contextsLawful {s : State} (h : s.ContextsLawful) : s.Sound := fun c => by
  obtain ⟨fits, -, transform, limit, deadline⟩ := h c
  refine ⟨fun state => ?_, fun state => ?_, transform, limit, deadline⟩
  · unfold Context.OptionalsFit at fits
    cases same : (s.ctx c).state <;> simp only [same] at fits
    case unenrolled => rw [fits]; exact ⟨rfl, rfl⟩
    case parked => exact ⟨fits.2.2.1, fits.2.2.2⟩
    case moving => exact ⟨fits.2.2.1, fits.2.2.2.1⟩
    case held => exact ⟨fits.2.2.1, fits.2.2.2.1⟩
    case faulted => exact absurd same state
  · unfold Context.OptionalsFit at fits
    rw [state] at fits
    exact ⟨fits.2.2.1, fits.2.2.2.1⟩

/-- Nothing but the verdict owed marks may differ. -/
def SameButOwed (s t : State) : Prop := ∀ c, ∃ b, t.ctx c = { s.ctx c with verdictOwed := b }

theorem SameButOwed.of_ctx {s t : State} (h : ∀ c, t.ctx c = s.ctx c) : SameButOwed s t := fun c => ⟨_, h c⟩

theorem SameButOwed.trans {s t u : State} (h : SameButOwed s t) (k : SameButOwed t u) : SameButOwed s u := fun c => by
  obtain ⟨b, eq⟩ := h c
  obtain ⟨b', eq'⟩ := k c
  exact ⟨b', by rw [eq', eq]⟩

theorem sameButOwed_modifyCtx (c : Carriage) (b : Bool) (s : State) :
    SameButOwed s (modifyCtx c (fun x => { x with verdictOwed := b }) s) := fun d => by
  rw [ctx_modifyCtx]
  split
  next eq => exact ⟨b, by rw [eq]⟩
  next => exact ⟨_, rfl⟩

theorem sameButOwed_feed (s : State) : SameButOwed s (feed s) := by
  have all : ∀ (n : Nat) (t : State), SameButOwed t (feedLoop n t) := by
    intro n
    induction n with
    | zero => exact fun t => .of_ctx fun _ => rfl
    | succ n ih =>
      intro t
      unfold feedLoop
      split
      · exact .of_ctx fun _ => rfl
      · split
        next r rest _ _ =>
          have moved : SameButOwed t (pushUq r.frame { t with occ := { t.occ with backlog := rest } }) :=
            .of_ctx fun c => (ctx_pushUq _ _ c).trans rfl
          exact moved.trans (.trans (sameButOwed_modifyCtx r.carriage false _) (ih _))
        · exact .of_ctx fun _ => rfl
  exact all _ s

theorem sameButOwed_appendRecord (r : BacklogRecord) (s : State) : SameButOwed s (appendRecord r s) :=
  (sameButOwed_modifyCtx r.carriage true { s with occ := { s.occ with backlog := s.occ.backlog ++ [r] } }).trans (sameButOwed_feed _)

theorem SameButOwed.sound {s t : State} (same : SameButOwed s t) (h : s.Sound) : t.Sound := fun c => by
  obtain ⟨b, eq⟩ := same c
  obtain ⟨whole, faulted, transform, limit, deadline⟩ := h c
  rw [eq]
  exact ⟨whole, faulted, transform, limit, deadline⟩

theorem sound_setCtx {s : State} {c : Carriage} {y : Context} (here : y.Sound) (h : s.Sound) : (setCtx c y s).Sound := fun d => by
  rw [ctx_setCtx]
  split
  · exact here
  · exact h d

/-- A carriage that is not FAULTED stays sound through any other change of state that arms no deadline beyond its limit. -/
theorem Context.Sound.move {x y : Context} (h : x.Sound) (before : x.state ≠ .faulted) (after : y.state ≠ .faulted)
    (cause : y.faultCause = x.faultCause) (reported : y.reported = x.reported) (scale : y.scale = x.scale)
    (limit : y.moveLimit = x.moveLimit) (deadline : ∀ r ∈ y.inFlight, ∀ n ∈ r.deadline, 1 ≤ n ∧ n ≤ 255) : y.Sound where
  whole _ := by rw [cause, reported]; exact h.whole before
  faulted state := absurd state after
  transform := by unfold Context.TransformFits; rw [scale]; exact h.transform
  limit := by rw [limit]; exact h.limit
  deadline := deadline

/-- A forward arms the move limit (R66, R68). -/
theorem Context.Sound.forwarded {x : Context} (h : x.Sound) (before : x.state ≠ .faulted) (source : Source) (sequence : Byte)
    (level : Level) (target : Point) (zone : Zone) (entry : Bool) (pops : Nat) (push : Option StackRecord) :
    (x.forwarded (newRecord x source sequence level target zone entry pops push)).Sound := by
  refine h.move before nofun rfl rfl rfl rfl fun r flight n armed => ?_
  cases flight
  have limit := h.limit
  by_cases unlimited : x.moveLimit = 0
  · simp [newRecord, unlimited] at armed
  · simp only [newRecord, unlimited, if_false, Option.mem_def, Option.some.injEq] at armed
    omega

theorem Context.Sound.passed {x : Context} (s : x.Sound) (h : HoldEntry) (before : x.state ≠ .faulted) : (x.passed h).Sound :=
  s.forwarded before h.source h.sequence h.level h.target h.zone.castSucc true h.pops h.push

theorem Context.Sound.setUp {x : Context} (h : x.Sound) {en sc tu tag : Byte} {off : Point} (ranges : setupInRange en sc tu tag = true) :
    (x.setUp en sc tu off tag).Sound := by
  obtain ⟨whole, faulted, transform, limit, deadline⟩ := h
  refine ⟨whole, faulted, ?_, limit, deadline⟩
  simp only [setupInRange, Bool.and_eq_true, Bool.or_eq_true, Bool.not_eq_true', decide_eq_true_eq] at ranges
  unfold Context.TransformFits Context.setUp
  dsimp only
  split
  next enabled => exact ranges.1.1.resolve_left (by rw [enabled]; nofun)
  next => exact transform

theorem Context.Sound.countDeadline {x : Context} (h : x.Sound) : x.countDeadline.Sound := by
  unfold Context.countDeadline
  split
  next moving =>
    refine h.move (by rw [moving]; nofun) (by rw [moving]; nofun) rfl rfl rfl rfl fun r flight n armed => ?_
    obtain ⟨r', before, rfl⟩ := Option.map_eq_some_iff.1 flight
    obtain ⟨m, armedBefore, rfl⟩ := Option.map_eq_some_iff.1 armed
    have range := h.deadline r' before m armedBefore
    split <;> omega
  next => exact h

theorem sound_markSent (h : Header) {s : State} (hs : s.Sound) : (markSent h s).Sound := by
  unfold markSent
  split
  next => exact hs
  next r record =>
    obtain ⟨-, flight, -⟩ := Context.movingRecord_eq_some record
    obtain ⟨whole, faulted, transform, limit, deadline⟩ := hs h.carriage
    exact sound_setCtx ⟨whole, faulted, transform, limit, fun r' same => by cases same; exact deadline r flight⟩ hs

/-- The contexts stay sound through every whole operation, beside the books. -/
theorem keptSound : KeptBeside State.Sound where
  same s t same := (SameButOwed.of_ctx same.ctx).sound
  toDq _ _ _ h := h
  tx _ _ _ h := h
  sent s f rest _ _ h := by
    have popped : State.Sound { s with link := { s.link with txD := .idle, dq := rest }, wireD := s.wireD ++ [.frame f.bytes] } := h
    unfold DFrame.whenSent
    split
    · exact sound_markSent _ popped
    · exact popped
  shorterUq s t same h := ((SameButOwed.of_ctx same.ctx).trans (sameButOwed_feed t)).sound h
  pass s z e h rest b _ used hs := by
    have held := (b.entries e h used).2.1
    rw [pass_eq]
    refine (sameButOwed_appendRecord _ _).sound ((SameButOwed.of_ctx (ctx_passUnreported z e h rest s)).sound ?_)
    exact sound_setCtx ((hs h.carriage).passed h (by rw [held]; nofun)) hs
  endHold s v r e h b used hs := by
    have held := (b.entries e h used).2.1
    have ended : (appendRecord (h.report v r) (endUnreported e h s)).Sound := by
      refine (sameButOwed_appendRecord _ _).sound ((SameButOwed.of_ctx (ctx_endUnreported e h s)).sound (sound_setCtx ?_ hs))
      exact (hs h.carriage).move (by rw [held]; nofun) nofun rfl rfl rfl rfl (hs h.carriage).deadline
    rcases endHold_eq v r used with eq | eq <;> rw [eq] <;> exact ended
  forward s h m admits _ hs := by
    refine (SameButOwed.of_ctx (ctx_forwardMove h m s)).sound (sound_setCtx ?_ hs)
    exact (hs h.carriage).forwarded (by rw [admits.parked]; nofun) h.source h.sequence (s.effectiveLevel h) m.target m.zone m.entry
      m.plan.pops m.plan.push
  hold s h m z e admits _ hs := by
    refine (SameButOwed.of_ctx (ctx_holdMove h m z e s)).sound (sound_setCtx ?_ hs)
    exact (hs h.carriage).move (by rw [admits.parked]; nofun) nofun rfl rfl rfl rfl (hs h.carriage).deadline
  rest s c r y _ moving _ _ rested hs := by
    obtain ⟨p, z, stack, clearance, rfl⟩ := rested
    exact sound_setCtx ((hs c).move (by rw [moving]; nofun) nofun rfl rfl rfl rfl nofun) hs
  fault s c r k q _ moving flight _ stray hs := by
    refine sound_setCtx ⟨fun whole => absurd rfl whole, fun _ => ⟨rfl, fun cause => ?_⟩, (hs c).transform, (hs c).limit, ?_⟩ hs
    · exact stray (Option.some.inj cause)
    · intro r' same n armed
      cases same
      cases armed
  late s c p faulted hs := by
    obtain ⟨-, cause, transform, limit, deadline⟩ := hs c
    exact sound_setCtx ⟨fun whole => absurd faulted whole, fun state => ⟨(cause state).1, fun _ => rfl⟩, transform, limit, deadline⟩ hs
  setUp s c en sc tu off tag ranges hs := sound_setCtx ((hs c).setUp ranges) hs
  enroll s c p z tag limit _ _ few hs :=
    sound_setCtx ⟨fun _ => ⟨rfl, rfl⟩, nofun, Context.sound_unenrolled.transform, few, nofun⟩ hs
  withdraw s c _ _ hs := sound_setCtx Context.sound_unenrolled hs
  release s c p z _ hs := sound_setCtx ⟨fun _ => ⟨rfl, rfl⟩, nofun, (hs c).transform, (hs c).limit, nofun⟩ hs
  haltEntry s _ hs := by
    refine haltEntry_keeps_of (P := State.Sound) (fun s t same => (SameButOwed.of_ctx same.ctx).sound) (fun s h => h)
      (fun s t c r moving same h => ?_) hs
    refine (sameButOwed_appendRecord _ _).sound ((SameButOwed.of_ctx same.ctx).sound (sound_setCtx ?_ h))
    exact (h c).move (by rw [moving]; nofun) nofun rfl rfl rfl rfl nofun
  govern _ h := h
  standby _ _ h := h
  countTicks s t h c := by
    unfold countTicks State.ctx
    dsimp only
    split
    · simp only [Fin.getElem_fin, Vector.getElem_map]; exact (h c).countDeadline
    · exact h c
  blank s blank c := by rw [State.ctx, blank.carriages]; simpa using Context.sound_unenrolled

/-- Settles O40: a record is appended for a carriage that has just come to rest and owes nothing, a pass finds the fed backlog
empty, and each change of a context writes the fields of the state it leaves. -/
theorem stepKeepsBacklogAndContexts : Obligations.StepKeepsBacklogAndContexts :=
  ⟨fun _ _ lawful fed b h => (keptBacklog.step b ⟨fed, lawful⟩ h).2, fun _ _ contexts lawful fed b h =>
    contextsLawful_of (fineBooks.kept.step b h) (keptBacklog.step b ⟨fed, lawful⟩ h).2
      (keptSound.step b (sound_of_contextsLawful contexts) h)⟩

end Sys2Proof.Machine
end

section
/-! The law of the forwarded moves (R66): a DRIVE_MOVE waits in DQ exactly while its carriage is MOVING on a record not marked
sent. -/

namespace Sys2Proof.Machine

/-! ### Frames and the records they belong to -/

/-- The carriage is MOVING on a record that is not marked sent and says what the DRIVE_MOVE says. -/
def Context.Carries (x : Context) (h : Header) (target : Point) : Prop :=
  x.state = .moving ∧ ∃ r, x.inFlight = some r ∧ r.source = h.source ∧ r.sequence = h.sequence ∧ r.sent = false ∧
    r.level = h.level ∧ r.target = target

theorem Context.carries_iff (x : Context) (h : Header) (target : Point) :
    (∃ r ∈ x.movingRecord h.source h.sequence, r.sent = false ∧ r.level = h.level ∧ r.target = target) ↔ x.Carries h target := by
  refine ⟨fun ⟨r, record, unsent, level, at_⟩ => ?_, fun ⟨moving, r, flight, source, sequence, rest⟩ => ⟨r, ?_, rest⟩⟩
  · obtain ⟨moving, flight, source, sequence⟩ := movingRecord_eq_some record
    exact ⟨moving, r, flight, source, sequence, unsent, level, at_⟩
  · unfold movingRecord
    rw [if_pos moving, flight]
    simp [source, sequence]

theorem mem_driveMoveCarriages {c : Carriage} {l : List DFrame} :
    c ∈ driveMoveCarriages l ↔ ∃ h p v, .driveMove h p v ∈ l ∧ h.carriage = c := by
  unfold driveMoveCarriages
  rw [List.mem_filterMap]
  constructor
  · rintro ⟨f, mem, eq⟩
    split at eq
    next h p v => cases eq; exact ⟨h, p, v, mem, rfl⟩
    next => cases eq
  · rintro ⟨h, p, v, mem, rfl⟩
    exact ⟨_, mem, rfl⟩

theorem driveMoveCarriages_append (a b : List DFrame) :
    driveMoveCarriages (a ++ b) = driveMoveCarriages a ++ driveMoveCarriages b := List.filterMap_append

theorem driveMoveCarriages_cons_driveMove (h : Header) (p : Point) (v : Speed) (l : List DFrame) :
    driveMoveCarriages (.driveMove h p v :: l) = h.carriage :: driveMoveCarriages l := rfl

theorem driveMoveCarriages_cons_other {f : DFrame} (other : f.isDriveMove = false) (l : List DFrame) :
    driveMoveCarriages (f :: l) = driveMoveCarriages l := by
  cases f with
  | driveMove => cases other
  | _ => rfl

/-- The frames of a list and the records not marked sent belong to each other, one to one (R66). -/
structure State.Driven (s : State) (l : List DFrame) : Prop where
  frames : ∀ h p v, .driveMove h p v ∈ l → (s.ctx h.carriage).Carries h p
  nodup : (driveMoveCarriages l).Nodup
  covers : ∀ c r, (s.ctx c).state = .moving → (s.ctx c).inFlight = some r → r.sent = false → c ∈ driveMoveCarriages l

/-- Outside GOVERNING no DRIVE_MOVE waits that is not being sent. -/
def State.Purged (s : State) : Prop := s.gov.state ≠ .governing → driveMoveCarriages s.link.unsent = []

theorem driveMovesLawful_iff (s : State) : s.DriveMovesLawful ↔ s.Driven s.link.dq ∧ s.Purged := by
  unfold State.DriveMovesLawful
  constructor
  · rintro ⟨frames, nodup, covers, purged⟩
    exact ⟨⟨fun h p v mem => (Context.carries_iff _ h p).1 (frames _ mem), nodup,
      fun c r moving flight unsent => covers c moving r flight unsent⟩, purged⟩
  · rintro ⟨⟨frames, nodup, covers⟩, purged⟩
    refine ⟨fun f mem => ?_, nodup, fun c moving r flight unsent => covers c r moving flight unsent, purged⟩
    split
    next h p v => exact (Context.carries_iff _ h p).2 (frames h p v mem)
    next => trivial

/-- A carriage without a record that waits to be sent has no frame. -/
theorem State.Driven.absent {s : State} {l : List DFrame} (d : s.Driven l) {c : Carriage}
    (idle : ∀ r, (s.ctx c).state = .moving → (s.ctx c).inFlight = some r → r.sent = true) : c ∉ driveMoveCarriages l := fun mem => by
  obtain ⟨h, p, v, there, rfl⟩ := mem_driveMoveCarriages.1 mem
  obtain ⟨moving, r, flight, -, -, unsent, -⟩ := d.frames h p v there
  rw [idle r moving flight] at unsent
  cases unsent

/-! ### What leaves frames and records together -/

/-- What a record says that its DRIVE_MOVE says. -/
def InFlight.drive (r : InFlight) : Source × Byte × Bool × Level × Point := (r.source, r.sequence, r.sent, r.level, r.target)

/-- The same carriages are MOVING on the same moves. -/
def SameDrives (s t : State) : Prop :=
  ∀ c, (t.ctx c).state = (s.ctx c).state ∧ (t.ctx c).inFlight.map InFlight.drive = (s.ctx c).inFlight.map InFlight.drive

theorem SameDrives.of_ctx {s t : State} (h : ∀ c, t.ctx c = s.ctx c) : SameDrives s t := fun c => by rw [h]; exact ⟨rfl, rfl⟩

theorem SameButOwed.drives {s t : State} (h : SameButOwed s t) : SameDrives s t := fun c => by
  obtain ⟨b, eq⟩ := h c
  rw [eq]
  exact ⟨rfl, rfl⟩

theorem Context.Carries.congr {x y : Context} {h : Header} {p : Point} (state : y.state = x.state)
    (flight : y.inFlight.map InFlight.drive = x.inFlight.map InFlight.drive) (carries : x.Carries h p) : y.Carries h p := by
  obtain ⟨moving, r, record, source, sequence, unsent, level, at_⟩ := carries
  rw [record] at flight
  obtain ⟨r', record', same⟩ := Option.map_eq_some_iff.1 flight
  simp only [InFlight.drive, Prod.mk.injEq] at same
  obtain ⟨source', sequence', unsent', level', at'⟩ := same
  exact ⟨state.trans moving, r', record', source'.trans source, sequence'.trans sequence, unsent'.trans unsent,
    level'.trans level, at'.trans at_⟩

theorem State.Driven.congr {s t : State} {l : List DFrame} (d : s.Driven l) (same : SameDrives s t) : t.Driven l where
  frames h p v mem := (d.frames h p v mem).congr (same _).1 (same _).2
  nodup := d.nodup
  covers c r moving flight unsent := by
    have before := (same c).2
    rw [flight] at before
    obtain ⟨r', record, eq⟩ := Option.map_eq_some_iff.1 before.symm
    simp only [InFlight.drive, Prod.mk.injEq] at eq
    exact d.covers c r' ((same c).1.symm.trans moving) record (eq.2.2.1.trans unsent)

theorem State.Purged.congr {s t : State} (dq : t.link.dq = s.link.dq) (txD : t.link.txD = s.link.txD)
    (state : t.gov.state = s.gov.state) (h : s.Purged) : t.Purged := by
  unfold State.Purged Link.unsent
  rw [dq, txD, state]
  exact h

/-- Carriages' moves, DQ, its transmitter and the governor state stand. -/
theorem driveMovesLawful_congr {s t : State} (same : SameDrives s t) (dq : t.link.dq = s.link.dq) (txD : t.link.txD = s.link.txD)
    (state : t.gov.state = s.gov.state) (h : s.DriveMovesLawful) : t.DriveMovesLawful := by
  rw [driveMovesLawful_iff] at h ⊢
  rw [dq]
  exact ⟨h.1.congr same, h.2.congr dq txD state⟩

/-- A carriage without a record that waits to be sent changes to one without. -/
theorem State.Driven.setCtx {s : State} {l : List DFrame} {c : Carriage} {y : Context} (d : s.Driven l)
    (before : ∀ r, (s.ctx c).state = .moving → (s.ctx c).inFlight = some r → r.sent = true)
    (after : ∀ r, y.state = .moving → y.inFlight = some r → r.sent = true) : (setCtx c y s).Driven l := by
  have absent := d.absent before
  refine ⟨fun h p v mem => ?_, d.nodup, fun i r moving flight unsent => ?_⟩
  · have other : h.carriage ≠ c := fun eq => absent (mem_driveMoveCarriages.2 ⟨h, p, v, mem, eq⟩)
    rw [ctx_setCtx_ne other]
    exact d.frames h p v mem
  · rw [ctx_setCtx] at moving flight
    split at moving
    next eq =>
      rw [if_pos eq] at flight
      rw [after r moving flight] at unsent
      cases unsent
    next other =>
      rw [if_neg other] at flight
      exact d.covers i r moving flight unsent

theorem driveMovesLawful_setCtx {s : State} {c : Carriage} {y : Context} (h : s.DriveMovesLawful)
    (before : ∀ r, (s.ctx c).state = .moving → (s.ctx c).inFlight = some r → r.sent = true)
    (after : ∀ r, y.state = .moving → y.inFlight = some r → r.sent = true) : (setCtx c y s).DriveMovesLawful := by
  rw [driveMovesLawful_iff] at h ⊢
  exact ⟨h.1.setCtx before after, h.2⟩

/-! ### A frame enters or leaves -/

/-- A move starts with its frame (R97, R111). -/
theorem State.Driven.push {s : State} {l : List DFrame} {h : Header} {p : Point} {v : Speed} {y : Context} (d : s.Driven l)
    (idle : (s.ctx h.carriage).state ≠ .moving) (carries : y.Carries h p) :
    (Machine.setCtx h.carriage y s).Driven (l ++ [.driveMove h p v]) := by
  have absent := d.absent fun r moving _ => absurd moving idle
  refine ⟨fun h' p' v' mem => ?_, ?_, fun i r moving flight unsent => ?_⟩
  · rcases List.mem_append.1 mem with old | new
    · have other : h'.carriage ≠ h.carriage := fun eq => absent (mem_driveMoveCarriages.2 ⟨h', p', v', old, eq⟩)
      rw [ctx_setCtx_ne other]
      exact d.frames h' p' v' old
    · cases List.mem_singleton.1 new
      rw [ctx_setCtx_self]
      exact carries
  · rw [driveMoveCarriages_append]
    refine List.nodup_append.2 ⟨d.nodup, List.nodup_singleton _, fun i mem j one => ?_⟩
    rw [List.mem_singleton.1 one]
    rintro rfl
    exact absent mem
  · rw [driveMoveCarriages_append]
    by_cases here : i = h.carriage
    · rw [here]; exact List.mem_append_right _ (.head _)
    · rw [ctx_setCtx_ne here] at moving flight
      exact List.mem_append_left _ (d.covers i r moving flight unsent)

/-- A frame leaves, and with it its carriage's wait to be sent (R67, R78). -/
theorem State.Driven.remove {s : State} {a b : List DFrame} {h : Header} {p : Point} {v : Speed} {y : Context}
    (d : s.Driven (a ++ .driveMove h p v :: b)) (after : ∀ r, y.state = .moving → y.inFlight = some r → r.sent = true) :
    (Machine.setCtx h.carriage y s).Driven (a ++ b) := by
  have nodup := d.nodup
  rw [driveMoveCarriages_append, driveMoveCarriages_cons_driveMove, List.nodup_middle, List.nodup_cons,
    ← driveMoveCarriages_append] at nodup
  refine ⟨fun h' p' v' mem => ?_, nodup.2, fun i r moving flight unsent => ?_⟩
  · have other : h'.carriage ≠ h.carriage := fun eq => nodup.1 (mem_driveMoveCarriages.2 ⟨h', p', v', mem, eq⟩)
    rw [ctx_setCtx_ne other]
    refine d.frames h' p' v' ?_
    rcases List.mem_append.1 mem with left | right
    · exact List.mem_append_left _ left
    · exact List.mem_append_right _ (.tail _ right)
  · rw [ctx_setCtx] at moving flight
    split at moving
    next eq =>
      rw [if_pos eq] at flight
      rw [after r moving flight] at unsent
      cases unsent
    next other =>
      rw [if_neg other] at flight
      have mem := d.covers i r moving flight unsent
      rw [driveMoveCarriages_append, driveMoveCarriages_cons_driveMove] at mem
      rw [driveMoveCarriages_append]
      rcases List.mem_append.1 mem with left | right
      · exact List.mem_append_left _ left
      · exact List.mem_append_right _ ((List.mem_cons.1 right).resolve_left other)

/-- Lists with the same DRIVE_MOVE frames. -/
theorem State.Driven.of_same {s : State} {a b : List DFrame} (d : s.Driven a) (carriages : driveMoveCarriages b = driveMoveCarriages a)
    (sub : ∀ h p v, DFrame.driveMove h p v ∈ b → DFrame.driveMove h p v ∈ a) : s.Driven b :=
  ⟨fun h p v mem => d.frames h p v (sub h p v mem), carriages ▸ d.nodup, carriages ▸ d.covers⟩

/-! ### The purge -/

theorem driveMoveCarriages_filter (l : List DFrame) : driveMoveCarriages (l.filter DFrame.isDriveMove) = driveMoveCarriages l := by
  induction l with
  | nil => rfl
  | cons f l ih =>
    cases f with
    | driveMove h p v => exact congrArg (h.carriage :: ·) ih
    | _ => exact ih

theorem driveMoveCarriages_others (l : List DFrame) : driveMoveCarriages (l.filter fun f => !f.isDriveMove) = [] := by
  induction l with
  | nil => rfl
  | cons f l ih => cases f <;> exact ih

/-- DQ is what is being sent and what is not (R18). -/
theorem dq_eq_unsent (l : Link) : (if l.txD = .frame then l.dq.take 1 else []) ++ l.unsent = l.dq := by
  unfold Link.unsent
  split
  · cases l.dq <;> rfl
  · rfl

/-- A purge parts the DRIVE_MOVE frames of DQ from the rest (R18). -/
theorem driven_purge {s : State} (d : s.Driven s.link.dq) : s.Driven (s.link.kept ++ s.link.purged) := by
  have whole := dq_eq_unsent s.link
  refine d.of_same ?_ fun h p v mem => ?_
  · conv_rhs => rw [← whole]
    unfold Link.kept Link.purged
    rw [driveMoveCarriages_append, driveMoveCarriages_append, driveMoveCarriages_append, driveMoveCarriages_others,
      driveMoveCarriages_filter, List.append_nil]
  · rw [← whole]
    unfold Link.kept Link.purged at mem
    simp only [List.mem_append, List.mem_filter] at mem ⊢
    tauto

theorem purged_haltAndPurge (s : State) : (haltAndPurge s).Purged := fun _ => by
  have others := driveMoveCarriages_others s.link.unsent
  show driveMoveCarriages (if s.link.txD = .frame then s.link.kept.tail else s.link.kept) = []
  unfold Link.kept
  unfold Link.unsent at others ⊢
  split
  next frame =>
    rw [if_pos frame] at others
    cases dq : s.link.dq with
    | nil => rfl
    | cons f rest => rw [dq] at others; exact others
  next idle =>
    rw [if_neg idle] at others
    exact others

/-- While a purge is undone: the frames yet to be undone still have their records. -/
structure State.Undoing (l : List DFrame) (s : State) : Prop where
  driven : s.Driven (s.link.dq ++ l)
  purged : s.Purged
  halted : s.gov.state = .halted

theorem calm_txD {s t : State} (h : Calm s t) : t.link.txD = s.link.txD := by
  obtain ⟨_, _, _, _, eq⟩ := h.link
  rw [eq]

/-- The undo of a frame whose carriage is MOVING on its record (R78). -/
theorem undoPurged_of_record {h : Header} {s : State} {r : InFlight} (p : Point) (v : Speed)
    (record : (s.ctx h.carriage).movingRecord h.source h.sequence = some r) :
    undoPurged s (.driveMove h p v) = appendRecord (cancelledRecord h.carriage r)
      (if r.entry then releaseClaim r.targetZone (setCtx h.carriage { s.ctx h.carriage with inFlight := none, state := .parked } s)
        else setCtx h.carriage { s.ctx h.carriage with inFlight := none, state := .parked } s) := by
  unfold undoPurged
  dsimp only
  rw [record]
  rfl

theorem undoing_undoPurged {h : Header} {p : Point} {v : Speed} {l : List DFrame} {s : State}
    (u : s.Undoing (.driveMove h p v :: l)) : (undoPurged s (.driveMove h p v)).Undoing l := by
  have notGoverning : s.gov.state ≠ .governing := by rw [u.halted]; nofun
  have calm := calm_undoPurged notGoverning (.driveMove h p v)
  have dq := calm.sameDq
  refine ⟨?_, u.purged.congr dq (calm_txD calm) (by rw [calm.sameGov]), by rw [calm.sameGov]; exact u.halted⟩
  obtain ⟨r, record, -⟩ := (Context.carries_iff _ h p).2 (u.driven.frames h p v (List.mem_append_right _ (.head _)))
  have removed := u.driven.remove (y := { s.ctx h.carriage with inFlight := none, state := .parked }) nofun
  rw [dq]
  rw [undoPurged_of_record p v record]
  split
  · exact removed.congr ((SameButOwed.of_ctx (sameMoves_releaseClaim (s := setCtx h.carriage _ s) notGoverning _).ctx).trans
      (sameButOwed_appendRecord _ _)).drives
  · exact removed.congr (sameButOwed_appendRecord _ _).drives

theorem undoing_foldl {l : List DFrame} (all : ∀ f ∈ l, f.isDriveMove = true) {s : State} (u : s.Undoing l) :
    (l.foldl undoPurged s).Undoing [] := by
  induction l generalizing s with
  | nil => exact u
  | cons f l ih =>
    have first := all f (.head _)
    cases f with
    | driveMove h p v => exact ih (fun g mem => all g (.tail _ mem)) (undoing_undoPurged u)
    | _ => cases first

theorem driveMovesLawful_haltEntry {s : State} (h : s.DriveMovesLawful) : (haltEntry s).DriveMovesLawful := by
  have driven := ((driveMovesLawful_iff s).1 h).1
  have parted : (haltAndPurge s).Driven (s.link.kept ++ s.link.purged) := 
    (driven_purge driven).congr (.of_ctx fun _ => rfl)
  have start : (haltAndPurge s).Undoing s.link.purged := ⟨parted, purged_haltAndPurge s, rfl⟩
  have undone := undoing_foldl (l := s.link.purged) (fun f mem => (List.mem_filter.1 mem).2) start
  have lawful : (s.link.purged.foldl undoPurged (haltAndPurge s)).DriveMovesLawful := by
    have driven := undone.driven
    rw [List.append_nil] at driven
    exact (driveMovesLawful_iff _).2 ⟨driven, undone.purged⟩
  have same : ∀ {t u : State}, SameMoves t u → t.DriveMovesLawful → u.DriveMovesLawful := fun same =>
    driveMovesLawful_congr (.of_ctx same.ctx) same.dq same.txD same.state
  unfold haltEntry
  refine same (.of_quiet (quiet_evalPauses _)) ?_
  split
  · exact lawful
  · exact same (sameMoves_servePending (by rw [undone.halted]; nofun)) lawful

/-! ### Every whole operation -/

theorem driveMoveCarriages_tail {l : List DFrame} (none : driveMoveCarriages l = []) : driveMoveCarriages l.tail = [] := by
  cases l with
  | nil => rfl
  | cons f l =>
    cases f with
    | driveMove => cases none
    | _ => exact none

theorem purged_toDq {s : State} {f : DFrame} (other : f.isDriveMove = false) (h : s.Purged) :
    State.Purged { s with link := { s.link with dq := s.link.dq ++ [f] } } := fun outside => by
  have before := h outside
  have one : driveMoveCarriages [f] = [] := driveMoveCarriages_cons_other other []
  unfold Link.unsent at before ⊢
  dsimp only
  split
  next frame =>
    rw [if_pos frame] at before
    cases dq : s.link.dq with
    | nil => rfl
    | cons g rest =>
      rw [dq] at before
      show driveMoveCarriages (rest ++ [f]) = []
      rw [driveMoveCarriages_append, one, List.append_nil]
      exact before
  next idle =>
    rw [if_neg idle] at before
    rw [driveMoveCarriages_append, before, one]
    rfl

theorem purged_tx {s : State} {x : TxD} (free : s.link.txD = .frame → s.link.dq = []) (h : s.Purged) :
    State.Purged { s with link := { s.link with txD := x } } := fun outside => by
  have none : driveMoveCarriages s.link.dq = [] := by
    have before := h outside
    unfold Link.unsent at before
    split at before
    next frame => rw [free frame]; rfl
    next => exact before
  unfold Link.unsent
  split
  · exact driveMoveCarriages_tail none
  · exact none

theorem markSent_of_record {h : Header} {s : State} {r : InFlight}
    (record : (s.ctx h.carriage).movingRecord h.source h.sequence = some r) :
    markSent h s = setCtx h.carriage { s.ctx h.carriage with inFlight := some { r with sent := true } } s := by
  unfold markSent
  rw [record]
  rfl

/-- The head of DQ has been sent: its record is marked, and the rest of DQ has not been touched (R17, R67). -/
theorem driveMovesLawful_whenSent {s t : State} {f : DFrame} (driven : s.Driven (f :: t.link.dq)) (carriages : t.carriages = s.carriages)
    (purged : t.Purged) : (f.whenSent t).DriveMovesLawful := by
  have ctx : ∀ c, t.ctx c = s.ctx c := fun c => by rw [State.ctx, carriages]; rfl
  have driven : t.Driven (f :: t.link.dq) := driven.congr (.of_ctx ctx)
  rw [driveMovesLawful_iff]
  cases f with
  | driveMove h p v =>
    obtain ⟨r, record, -⟩ := (Context.carries_iff _ h p).2 (driven.frames h p v (.head _))
    have marked := driven.remove (a := []) (y := { t.ctx h.carriage with inFlight := some { r with sent := true } })
      fun r' _ same => by cases same; rfl
    rw [DFrame.whenSent, markSent_of_record record]
    exact ⟨marked, purged⟩
  | _ => exact ⟨driven.of_same (driveMoveCarriages_cons_other rfl _).symm fun _ _ _ mem => .tail _ mem, purged⟩

/-- The carriages' moves, and the law of DQ with them, follow every whole operation, beside the books. -/
theorem keptDriveMoves : KeptBeside State.DriveMovesLawful where
  same s t same := driveMovesLawful_congr (.of_ctx same.ctx) same.dq same.txD same.state
  toDq s f other h := by
    rw [driveMovesLawful_iff] at h ⊢
    have one : driveMoveCarriages [f] = [] := driveMoveCarriages_cons_other other []
    refine ⟨(h.1.of_same ?_ fun _ _ _ mem => ?_).congr (.of_ctx fun _ => rfl), purged_toDq other h.2⟩
    · rw [driveMoveCarriages_append, one, List.append_nil]
    · refine (List.mem_append.1 mem).resolve_right fun same => ?_
      rw [← List.mem_singleton.1 same] at other
      cases other
  tx s x free h := by
    rw [driveMovesLawful_iff] at h ⊢
    exact ⟨h.1.congr (.of_ctx fun _ => rfl), purged_tx free h.2⟩
  sent s f rest tx dq h := by
    obtain ⟨driven, purged⟩ := (driveMovesLawful_iff s).1 h
    rw [dq] at driven
    have unsent : s.link.unsent = rest := by rw [Link.unsent, if_pos tx, dq]; rfl
    exact driveMovesLawful_whenSent (s := s)
      (t := { s with link := { s.link with txD := .idle, dq := rest }, wireD := s.wireD ++ [.frame f.bytes] }) driven rfl
      fun outside => (congrArg driveMoveCarriages unsent.symm).trans (purged outside)
  shorterUq s t same h := by
    have calm : Calm t (feed t) := calm_feedLoop _ t
    refine driveMovesLawful_congr ((SameButOwed.of_ctx same.ctx).trans (sameButOwed_feed t)).drives (calm.sameDq.trans same.dq)
      ((calm_txD calm).trans same.txD) ?_ h
    rw [calm.sameGov]; exact same.state
  pass s z e h rest b allowed used hs := by
    have held := (b.entries e h used).2.1
    simp only [State.passAllowed, Bool.and_eq_true, decide_eq_true_eq] at allowed
    have governing : (pass z e h rest s).gov.state = .governing := by
      rw [(sameBooks_pass z e h rest s).state]; exact allowed.1.1.1.1
    rw [driveMovesLawful_iff] at hs ⊢
    refine ⟨?_, fun outside => absurd governing outside⟩
    have started := hs.1.push (h := { source := h.source, carriage := h.carriage, level := h.level, sequence := h.sequence })
      (p := h.target) (v := h.speed) (y := (s.ctx h.carriage).passed h) (by rw [held]; nofun) ⟨rfl, _, rfl, rfl, rfl, rfl, rfl, rfl⟩
    rw [pass_eq, appendRecord_dq, passUnreported_link, pushDq_dq]
    exact started.congr ((SameButOwed.of_ctx (ctx_passUnreported z e h rest s)).trans (sameButOwed_appendRecord _ _)).drives
  endHold s v r e h b used hs := by
    have held := (b.entries e h used).2.1
    have ended := driveMovesLawful_setCtx (c := h.carriage) (y := { s.ctx h.carriage with state := .parked, holdRef := none }) hs
      (fun r moving => by rw [held] at moving; cases moving) nofun
    have same : (appendRecord (h.report v r) (endUnreported e h s)).DriveMovesLawful := by
      have calm := calm_appendRecord (h.report v r) (endUnreported e h s)
      refine driveMovesLawful_congr ((SameButOwed.of_ctx (ctx_endUnreported e h s)).trans (sameButOwed_appendRecord _ _)).drives
        ?_ ?_ ?_ ended
      · rw [calm.sameDq, endUnreported_link]; rfl
      · rw [calm_txD calm, endUnreported_link]; rfl
      · rw [calm.sameGov, endUnreported, setCtx_gov, (sameBooks_freeEntry (e := e) (.refl _)).state]; rfl
    rcases endHold_eq v r used with eq | eq <;> rw [eq]
    · exact same
    · exact driveMovesLawful_congr (.of_ctx fun _ => rfl) rfl rfl rfl same
  forward s h m admits _ hs := by
    have governing : (forwardMove h m s).gov.state = .governing := by
      rw [(sameBooks_forwardMove h m s).state, startMove]; split <;> exact admits.governing
    rw [driveMovesLawful_iff] at hs ⊢
    refine ⟨?_, fun outside => absurd governing outside⟩
    have started := hs.1.push (h := s.effectiveHeader h) (p := m.target) (v := m.speed) (y := s.forwardedCtx h m)
      (show (s.ctx h.carriage).state ≠ _ by rw [admits.parked]; nofun) ⟨rfl, _, rfl, rfl, rfl, rfl, rfl, rfl⟩
    rw [forwardMove_link, pushDq_dq]
    exact started.congr (.of_ctx (ctx_forwardMove h m s))
  hold s h m z e admits _ hs := by
    have held := driveMovesLawful_setCtx (c := h.carriage) (y := { s.ctx h.carriage with state := .held, holdRef := some e }) hs
      (fun r moving => by rw [admits.parked] at moving; cases moving) nofun
    refine driveMovesLawful_congr (.of_ctx (ctx_holdMove h m z e s)) ?_ ?_ ?_ held
    · rw [holdMove_link]; rfl
    · rw [holdMove_link]; rfl
    · rw [(sameBooks_holdMove h m z e s).state]; rfl
  rest s c r y _ _ flight sent rested hs := by
    obtain ⟨p, z, stack, clearance, eq⟩ := rested
    refine driveMovesLawful_setCtx hs (fun r' _ same => ?_) fun r' moving => by rw [eq] at moving; cases moving
    rw [flight] at same
    cases same
    exact sent
  fault s c r k q _ _ flight sent _ hs := by
    refine driveMovesLawful_setCtx hs (fun r' _ same => ?_) nofun
    rw [flight] at same
    cases same
    exact sent
  late s c p faulted hs := driveMovesLawful_setCtx hs (fun r moving => by rw [faulted] at moving; cases moving)
    fun r moving => by rw [show _ = CarriageState.faulted from faulted] at moving; cases moving
  setUp s c en sc tu off tag _ hs := by
    refine driveMovesLawful_congr (s := s) (fun d => ?_) rfl rfl rfl hs
    rw [ctx_setCtx]
    split
    next eq => rw [eq]; exact ⟨rfl, rfl⟩
    next => exact ⟨rfl, rfl⟩
  enroll s c p z tag limit _ absent _ hs :=
    driveMovesLawful_setCtx hs (fun r moving => by rw [absent] at moving; cases moving) nofun
  withdraw s c parked _ hs := driveMovesLawful_setCtx hs (fun r moving => by rw [parked] at moving; cases moving) nofun
  release s c p z faulted hs := driveMovesLawful_setCtx hs (fun r moving => by rw [faulted] at moving; cases moving) nofun
  haltEntry _ _ := driveMovesLawful_haltEntry
  govern s h := by
    rw [driveMovesLawful_iff] at h ⊢
    exact ⟨h.1.congr (.of_ctx fun _ => rfl), fun outside => absurd rfl outside⟩
  standby s idle h := by
    rw [driveMovesLawful_iff] at h ⊢
    refine ⟨h.1.congr (.of_ctx fun _ => rfl), fun _ => ?_⟩
    have none : driveMoveCarriages s.link.dq = [] := List.eq_nil_iff_forall_not_mem.2 fun c =>
      h.1.absent fun r moving _ => absurd moving (idle c).1
    show driveMoveCarriages s.link.unsent = []
    unfold Link.unsent
    split
    · exact driveMoveCarriages_tail none
    · exact none
  countTicks s t h := by
    refine driveMovesLawful_congr (s := s) (fun c => ?_) rfl rfl rfl h
    unfold countTicks State.ctx
    dsimp only
    split
    · simp only [Fin.getElem_fin, Vector.getElem_map]
      unfold Context.countDeadline
      split
      · refine ⟨rfl, ?_⟩
        rw [Option.map_map]
        rfl
      · exact ⟨rfl, rfl⟩
    · exact ⟨rfl, rfl⟩
  blank s blank := by
    have ctx : ∀ c, s.ctx c = .unenrolled := fun c => by rw [State.ctx, blank.carriages]; simp
    rw [driveMovesLawful_iff]
    refine ⟨⟨fun h p v mem => ?_, ?_, fun c r moving => ?_⟩, fun _ => ?_⟩
    · rw [blank.dq] at mem; cases mem
    · rw [blank.dq]; exact List.nodup_nil
    · rw [ctx] at moving; cases moving
    · rw [Link.unsent, blank.dq]; split <;> rfl

/-- Settles O17: a move starts and its frame enters DQ together, the record is marked when the frame leaves, and a purge undoes
each frame that it removes; none waits when the governor has left GOVERNING. -/
theorem stepKeepsDriveMoves : Obligations.StepKeepsDriveMoves := fun _ _ h b taken => keptDriveMoves.step b h taken

end Sys2Proof.Machine
end

section
/-! The step and the resets: the values a completed power-on reset leaves, what a hard reset holds, and what a soft reset does. -/

namespace Sys2Proof.Machine

/-- Settles O1: that is how a step is defined. -/
theorem stepRunsFrontCommand : Obligations.StepRunsFrontCommand := fun _ _ _ h => step_of_pending_cons h

/-! ### The reset state -/

theorem blank_reset : Blank State.reset := ⟨rfl, rfl, rfl, rfl, rfl⟩

theorem atReset_reset : State.reset.AtReset where
  link := rfl
  sources := rfl
  table := rfl
  occ := rfl
  carriages := ctx_of_unenrolled rfl
  windows := rfl
  timers := rfl
  gov := rfl

theorem claimCount_reset (z : Zone) : State.reset.claimCount z = 0 := by simp [State.claimCount, State.reset, Occupancy.reset]

theorem waits_reset (z : ZoneIndex) : State.reset.occ.waits[z] = [] := by simp [State.reset, Occupancy.reset]

theorem recheck_reset (z : ZoneIndex) : State.reset.occ.recheck[z] = false := by simp [State.reset, Occupancy.reset]

theorem inUse_reset : State.reset.occ.inUse = 0 := by decide

theorem capacityKept_reset : State.reset.CapacityKept := fun z _ => by rw [claimCount_reset]; exact Nat.zero_le _

theorem booksAgree_reset : State.reset.BooksAgree := fineBooks.blank _ blank_reset

theorem standbyLawful_reset : State.reset.StandbyLawful := fun _ c => by
  rw [atReset_reset.carriages c]
  exact ⟨nofun, nofun⟩

theorem lawful_reset : State.reset.Lawful where
  contexts := contextsLawful_of booksAgree_reset (keptBacklog.blank _ blank_reset).2 (keptSound.blank _ blank_reset)
  portalStacks := stackRule_holds.1 ((stackRule_lawful.fine stackRule_table).blank _ blank_reset).2
  floor := (floorRule_holds.1 ((floorRule_lawful.fine floorRule_table).blank _ blank_reset).2).2
  lookups := lookupRule_holds.1 ((lookupRule_lawful.fine lookupRule_table).blank _ blank_reset).2
  claims z := ⟨booksAgree_reset.counts z, capacityKept_reset z⟩
  waits :=
    ⟨booksAgree_reset.lists, fun e h used => (nomatch (atReset_reset.pool e ▸ used : h ∈ (none : Option HoldEntry))),
      booksAgree_reset.held⟩
  rechecks := keptRechecks.blank _ blank_reset
  backlog := (keptBacklog.blank _ blank_reset).2
  fed := .inl rfl
  holdWarn := ⟨fun high => (by rw [inUse_reset] at high; cases high), fun _ => rfl⟩
  queues := ⟨Nat.zero_le _, Nat.zero_le _⟩
  transmitters := ⟨nofun, nofun⟩
  driveMoves := keptDriveMoves.blank _ blank_reset
  pauses := ⟨rfl, rfl⟩
  softPending := rfl
  inReset := nofun
  calendar := rfl
  windows w := by rw [atReset_reset.window w]; exact ⟨fun _ => rfl, fun _ => rfl⟩
  counts := ⟨by decide, by decide, fun n => by rw [atReset_reset.timer n]; exact ⟨by decide, nofun⟩⟩
  standby := standbyLawful_reset
  pulses p := by rw [atReset_reset.pulses p]; exact ⟨Nat.zero_le _, nofun⟩
  debounce := (by decide : 0 < 4)

theorem sources_reset {i : Source} (other : i ≠ 0) :
    State.reset.sources[i] = { enabled := false, ceiling := 3, mayManage := false } := by
  have all : ∀ i : Source, i ≠ 0 → State.reset.sources[i] = { enabled := false, ceiling := 3, mayManage := false } := by decide
  exact all i other

/-- Settles O3: the reset values block by block; the reset state is blank, which every law allows. -/
theorem resetValues : Obligations.ResetValues := by
  unfold Obligations.ResetValues
  refine ⟨⟨rfl, rfl, fun i => sources_reset, fun i => ?_, rfl, rfl, atReset_reset.carriages, claimCount_reset, atReset_reset.pool,
    fun z => ⟨waits_reset z, recheck_reset z⟩, rfl, rfl, rfl, rfl, rfl, rfl, atReset_reset.window, atReset_reset.timer, rfl, rfl,
    rfl, rfl, atReset_reset.pulses, rfl, rfl, rfl, rfl, rfl, rfl, rfl, rfl, rfl⟩, lawful_reset, capacityKept_reset, booksAgree_reset⟩
  simp [State.reset, ZoneTable.reset]

/-! ### What the effects of a tick leave alone -/

/-- What no effect of a tick touches: governor control but for its state, flags and pulses, the time base and the calendar; and
what has been sent stays sent. -/
structure SameBase (s t : State) : Prop where
  gov : ∃ state flags pulses, t.gov = { s.gov with state := state, flags := flags, pulses := pulses }
  divider : t.time.divider = s.time.divider
  subSecond : t.time.subSecond = s.time.subSecond
  calendar : t.time.calendar = s.time.calendar
  timeInvalid : t.time.timeInvalid = s.time.timeInvalid
  wireU : s.wireU <+: t.wireU
  wireD : s.wireD <+: t.wireD

namespace SameBase

theorem refl (s : State) : SameBase s s := ⟨⟨_, _, _, rfl⟩, rfl, rfl, rfl, rfl, List.prefix_refl _, List.prefix_refl _⟩

theorem trans {s t u : State} (h : SameBase s t) (k : SameBase t u) : SameBase s u where
  gov := by
    obtain ⟨_, _, _, first⟩ := h.gov
    obtain ⟨state, flags, pulses, second⟩ := k.gov
    exact ⟨state, flags, pulses, by rw [second, first]⟩
  divider := k.divider.trans h.divider
  subSecond := k.subSecond.trans h.subSecond
  calendar := k.calendar.trans h.calendar
  timeInvalid := k.timeInvalid.trans h.timeInvalid
  wireU := h.wireU.trans k.wireU
  wireD := h.wireD.trans k.wireD

theorem of_traffic {s t : State} (h : Traffic s t) : SameBase s t where
  gov := by obtain ⟨flags, pulses, eq⟩ := h.gov; exact ⟨s.gov.state, flags, pulses, eq⟩
  divider := by rw [h.time]
  subSecond := by rw [h.time]
  calendar := by rw [h.time]
  timeInvalid := by rw [h.time]
  wireU := h.wireU
  wireD := h.wireD

theorem run {s t : State} (h : Internals s t) : SameBase s t := of_traffic h.traffic

theorem foldl {α : Type} {f : State → α → State} (one : ∀ s a, SameBase s (f s a)) (l : List α) (s : State) :
    SameBase s (l.foldl f s) := by
  induction l generalizing s with
  | nil => exact refl s
  | cons a l ih => exact (one s a).trans (ih _)

end SameBase

theorem sameBase_haltEntry (s : State) : SameBase s (haltEntry s) :=
  have first : SameBase s (haltAndPurge s) := { SameBase.refl s with gov := ⟨_, _, _, rfl⟩ }
  first.trans (.of_traffic (calm_haltEntry s).toTraffic)

theorem sameBase_raise (f : Flag) (s : State) : SameBase s (raise f s) := .run (.of (.flag f s))

theorem sameBase_takeCause (k : Cause) (s : State) : SameBase s (takeCause k s) := by
  rcases takeCause_cases k s with h | ⟨-, h⟩ <;> rw [h]
  · exact sameBase_raise _ _
  · exact (sameBase_raise _ _).trans (sameBase_haltEntry _)

theorem sameBase_takeStop (s : State) : SameBase s (takeStop s) := by
  unfold takeStop
  split
  · exact .refl s
  · exact (sameBase_raise _ _).trans (sameBase_haltEntry _)
  · exact sameBase_raise _ _

theorem sameBase_expireDeadline (c : Carriage) (s : State) : SameBase s (expireDeadline c s) := by
  unfold expireDeadline
  dsimp only
  split
  · split
    · exact (SameBase.run (internals_setCtx _ _ s)).trans (sameBase_takeCause _ _)
    · exact .refl s
  · exact .refl s

theorem sameBase_expireHold (e : Fin 16) (s : State) : SameBase s (expireHold e s) := by
  unfold expireHold
  split
  · split
    · exact .run (internals_endHold ..)
    · exact .refl s
  · exact .refl s

theorem sameBase_setWindow (w : Fin 16) (e : WindowEntry) (s : State) : SameBase s (setWindow w e s) := { SameBase.refl s with }

theorem sameBase_changeWindow (w : Fin 16) (e : WindowEntry) (s : State) : SameBase s (changeWindow w e s) := by
  unfold changeWindow
  dsimp only
  split
  · exact sameBase_setWindow w e s
  · have raised := (sameBase_setWindow w e s).trans (sameBase_raise .window _)
    split
    · exact raised
    · exact raised.trans (.run (internals_withdrawForWindow w _))

theorem sameBase_evalWindows (s : State) : SameBase s (evalWindows s) := by
  unfold evalWindows
  split
  · exact .refl s
  · refine .foldl (fun s w => ?_) _ _
    unfold evalWindow
    dsimp only
    split
    · exact sameBase_changeWindow _ _ _
    · exact .refl s

theorem sameBase_timerAction (n : Fin 4) (a : TimerAction) (s : State) : SameBase s (timerAction n a s) := by
  unfold timerAction
  split
  · exact sameBase_raise _ _
  · split
    · exact .of_traffic (traffic_pushDq _ _)
    · exact .refl s

theorem sameBase_expireTimer (n : Fin 4) (s : State) : SameBase s (expireTimer n s) := by
  unfold expireTimer
  dsimp only
  split
  · refine .trans ?_ (sameBase_timerAction _ _ _)
    exact { SameBase.refl s with }
  · exact .refl s

/-- No effect of a tick touches a held level, the debounce or the time base. -/
theorem sameBase_take (s : State) (a : TickEvent) : SameBase s (TickEvent.take s a) := by
  cases a with
  | pulses => exact { SameBase.refl s with gov := ⟨_, _, _, rfl⟩ }
  | stop => exact sameBase_takeStop s
  | timer n => exact sameBase_expireTimer n s
  | deadline c => exact sameBase_expireDeadline c s
  | hold e => exact sameBase_expireHold e s
  | windows => exact sameBase_evalWindows s

/-- After the counting, the effects of a tick. -/
theorem sameBase_takeTicks (t : Ticks) (assertion : Bool) (s : State) : SameBase (countTicks t s) (takeTicks t assertion s) :=
  .foldl sameBase_take _ _

end Sys2Proof.Machine
end

section
/-! Resets taken and completed, receivers and permits. -/

namespace Sys2Proof.Machine

/-! ### Frames that complete reception -/

/-- The command of a frame the port receives is its reception. -/
theorem exec_frame {p : Port} {f : InFrame} (accepted : kindAccepted p f.kind = true) (s : State) :
    exec (f.command p) s = .next (receive p f s) := by
  cases f with
  | transit h payload => rfl
  | moveAbs | moveRel | setup | stopCarriage | mgmtReq =>
    cases p with
    | u => rfl
    | d => cases accepted
  | done | contact =>
    cases p with
    | u => cases accepted
    | d => rfl

theorem inReset_setReceiver (p : Port) (r : Receiver) (s : State) : (setReceiver p r s).inReset = s.inReset := by
  rw [State.inReset, setReceiver_gov]; rfl

/-- While a reset holds the part a frame is discarded in silence (R159). -/
theorem completeFrame_of_held {s : State} (held : s.inReset = true) (p : Port) (f : Option InFrame) :
    completeFrame p f s = setReceiver p .idle s := by
  unfold completeFrame
  dsimp only
  rw [inReset_setReceiver, held]
  exact if_pos rfl

/-- While a soft reset is pending a frame is discarded in silence (R9). -/
theorem completeFrame_of_pending {s : State} (pending : s.gov.softPending = true) (p : Port) (f : Option InFrame) :
    completeFrame p f s = setReceiver p .idle s := by
  unfold completeFrame
  dsimp only
  rw [setReceiver_gov, pending, Bool.or_true]
  exact if_pos rfl

/-- Otherwise the receive checks decide (R7). -/
theorem completeFrame_of_receiving {s : State} (free : s.inReset = false) (idle : s.gov.softPending = false) (p : Port)
    (f : Option InFrame) : completeFrame p f s = match f with
      | none => raise .linkerr (setReceiver p .idle s)
      | some f => admitFrame p f (setReceiver p .idle s) := by
  unfold completeFrame
  dsimp only
  rw [setReceiver_gov, inReset_setReceiver, free, idle]
  exact if_neg Bool.false_ne_true

theorem roomFor_setReceiver (p q : Port) (r : Receiver) (s : State) : (setReceiver p r s).roomFor q = s.roomFor q := by
  cases q <;> simp [State.roomFor, State.freeDq, State.freeUq]

theorem startFrame_of_held {s : State} (held : s.inReset = true) (p : Port) (run : List Byte) : startFrame p run s = s := if_pos held

theorem setStopped_of_held {s : State} (held : s.inReset = true) (p : Port) (b : Bool) : setStopped p b s = s := if_pos held

/-! ### Hard resets -/

/-- The wires grow by the announcement first, whatever a base tick then brings (R159, R22). -/
theorem baseTick_completes {s : State} (raw : Bool) (held : s.gov.powerOnHold = true) :
    (takeBaseTick raw s).gov.powerOnHold = false ∧ (takeBaseTick raw s).gov.lineHold = s.gov.lineHold ∧
      (s.wireU ++ [.go]) <+: (takeBaseTick raw s).wireU ∧ (s.wireD ++ [.go]) <+: (takeBaseTick raw s).wireD := by
  have base := sameBase_takeTicks s.baseTicks (s.assertsStop raw) (countBase raw (completePowerOn s))
  have completed : completePowerOn s =
      { s with gov := { s.gov with powerOnHold := false }, wireU := s.wireU ++ [.go], wireD := s.wireD ++ [.go] } := if_pos held
  rw [completed] at base
  obtain ⟨state, flags, pulses, gov⟩ := base.gov
  unfold takeBaseTick
  rw [completed, gov]
  exact ⟨rfl, rfl, base.wireU, base.wireD⟩

/-- Settles O4: the first tick completes a power-on reset, since no effect of a tick touches the held levels; what a held part
receives is cut off before any check. -/
theorem hardResets : Obligations.HardResets := by
  unfold Obligations.HardResets
  refine ⟨fun s => Bool.or_eq_true _ _ ▸ Iff.rfl, ⟨fun s => rfl, fun s raw held => ⟨_, rfl, baseTick_completes raw held⟩⟩,
    ⟨fun s => rfl, fun s held => congrArg _ (if_pos held), fun s free => congrArg _ (if_neg (by rw [free]; nofun))⟩,
    fun s held => ⟨fun p f accepted => ?_, fun p bytes => ⟨?_, ?_, ?_, ?_, ?_⟩, fun p => ⟨?_, ?_⟩⟩⟩
  · rw [exec_frame accepted]
    exact congrArg _ (completeFrame_of_held held p _)
  · exact congrArg _ (completeFrame_of_held held p _)
  · exact congrArg _ (completeFrame_of_held held p _)
  · exact congrArg _ (completeFrame_of_held held p _)
  · exact congrArg _ (startFrame_of_held held p bytes)
  · exact congrArg _ (startFrame_of_held held p bytes)
  · exact congrArg _ (setStopped_of_held held p true)
  · exact congrArg _ (setStopped_of_held held p false)

/-! ### The cause flags and the soft reset -/

/-- A RESET is taken: its response enters UQ marked, then the pending mark follows (R171). -/
theorem exec_resetReq {s : State} {h : Header} (rid : Byte) (takes : s.TakesU) (manages : s.Manages h) :
    exec (.resetReq h rid []) s =
      .next (acceptReset (pushUqMarked (.mgmtRsp { h with level := 0 } 0x51 rid .ok []) true (setReceiver .u .idle s))) := by
  have may : (setReceiver .u .idle s).sources[h.source].manages = true := (manages_iff s h).2 manages
  have arrived : exec (.resetReq h rid []) s = .next (receive .u (.mgmtReq h 0x51 rid []) s) := rfl
  have code : Request.ofCode 0x51 = some .reset := Request.ofCode_code .reset
  rw [arrived, receive_mgmtReq takes (Nat.zero_le _), takeMgmtReq, may, if_neg (by nofun), code]
  rfl

/-- Settles O5: the marked response carries the pending mark to its own completion, and there the soft reset takes effect. -/
theorem causeAndSoftReset : Obligations.CauseAndSoftReset := by
  unfold Obligations.CauseAndSoftReset
  refine ⟨fun s h rid takes manages => ⟨?_, exec_resetReq rid takes manages⟩, fun s e rest sending queue marked pending => ?_⟩
  · exact exec_request (r := .readCause) takes manages rfl nofun
  · have done : uTxComplete s = softReset
        { s with link := { s.link with sendingU := false, uq := rest }, wireU := s.wireU ++ [.frame e.frame.bytes] } := by
      simp [uTxComplete, sending, queue, marked, pending]
    show Host.Outcome.next (uTxComplete s) = _
    rw [done]
    simp [softReset, sendGo, State.reset, Governor.reset, Timer.reload]

/-! ### Flow control -/

/-- A completed frame of UQ has left the part, and nothing follows it out before it (R16). -/
theorem uTxComplete_sent {s : State} {e : UEntry} {rest : List UEntry} (sending : s.link.sendingU = true)
    (queue : s.link.uq = e :: rest) :
    (uTxComplete s).link.sendingU = false ∧ (s.wireU ++ [.frame e.frame.bytes]) <+: (uTxComplete s).wireU := by
  unfold uTxComplete
  rw [if_pos sending, queue]
  dsimp only
  split
  · exact ⟨rfl, List.prefix_append _ _⟩
  · have announced : Traffic
        { s with link := { s.link with sendingU := false, uq := rest }, wireU := s.wireU ++ [.frame e.frame.bytes] }
        (announceUq { s with link := { s.link with sendingU := false, uq := rest }, wireU := s.wireU ++ [.frame e.frame.bytes] }) :=
      ((traffic_evalPauses _).trans (internals_feed _).traffic).trans (internals_servePending _).traffic
    obtain ⟨_, _, _, _, link⟩ := announced.link
    exact ⟨by rw [link], announced.wireU⟩

theorem traffic_announceDq (s : State) : Traffic s (announceDq s) :=
  (traffic_evalPauses s).trans (internals_servePending _).traffic

/-- The mark of a sent move is a change of its context alone (R67). -/
theorem whenSent_cases (f : DFrame) (s : State) : f.whenSent s = s ∨ ∃ c x, f.whenSent s = setCtx c x s := by
  cases f with
  | driveMove h p v =>
    show markSent h s = s ∨ ∃ c x, markSent h s = setCtx c x s
    unfold markSent
    split
    · exact .inl rfl
    · exact .inr ⟨_, _, rfl⟩
  | driveStop | heartbeat | transit => exact .inl rfl

theorem traffic_whenSent (f : DFrame) (s : State) : Traffic s (f.whenSent s) := by
  rcases whenSent_cases f s with eq | ⟨c, x, eq⟩ <;> rw [eq]
  · exact .refl s
  · exact traffic_setCtx c x s

/-- A completed frame of DQ is the next the part has sent, and the transmitter is IDLE (R17). -/
theorem dTxComplete_traffic {s : State} {f : DFrame} {rest : List DFrame} (sending : s.link.txD = .frame)
    (queue : s.link.dq = f :: rest) :
    Traffic { s with link := { s.link with txD := .idle, dq := rest }, wireD := s.wireD ++ [.frame f.bytes] } (dTxComplete s) := by
  have done : dTxComplete s = announceDq (f.whenSent
      { s with link := { s.link with txD := .idle, dq := rest }, wireD := s.wireD ++ [.frame f.bytes] }) := by
    simp [dTxComplete, sending, queue]
  rw [done]
  exact (traffic_whenSent _ _).trans (traffic_announceDq _)

theorem dTxComplete_sent {s : State} {f : DFrame} {rest : List DFrame} (sending : s.link.txD = .frame)
    (queue : s.link.dq = f :: rest) :
    (dTxComplete s).link.txD = .idle ∧ rest <+: (dTxComplete s).link.dq ∧
      (s.wireD ++ [.frame f.bytes]) <+: (dTxComplete s).wireD := by
  have traffic := dTxComplete_traffic sending queue
  obtain ⟨_, _, _, _, link⟩ := traffic.link
  exact ⟨by rw [link], traffic.dq, traffic.wireD⟩

theorem pauseCauseU_eq (s : State) : s.pauseCauseU =
    decide (16 - s.link.dq.length < 3 ∨ 16 - s.link.uq.length < 3 ∨ s.gov.softPending = true) := by
  refine Bool.eq_iff_iff.2 ?_
  simp only [State.pauseCauseU, Bool.or_eq_true, decide_eq_true_eq, or_assoc]
  exact Iff.rfl

theorem pauseCauseD_eq (s : State) : s.pauseCauseD = decide (16 - s.link.uq.length < 3 ∨ s.gov.softPending = true) := by
  refine Bool.eq_iff_iff.2 ?_
  simp only [State.pauseCauseD, Bool.or_eq_true, decide_eq_true_eq]
  exact Iff.rfl

/-- Settles O7: a permit gates only the beginning of a frame; the pause states are what their conditions give. -/
theorem flowControl : Obligations.FlowControl := by
  unfold Obligations.FlowControl
  refine ⟨⟨fun s free => ⟨?_, ?_, ?_, ?_⟩, fun s stopped => ?_, fun s stopped => ?_, fun s e rest _ sending queue => ?_,
    fun s f rest _ sending queue => ?_, fun s u d => ?_⟩, fun s => ?_⟩
  · exact congrArg _ (if_neg (by rw [free]; nofun))
  · exact congrArg _ (if_neg (by rw [free]; nofun))
  · exact congrArg _ (if_neg (by rw [free]; nofun))
  · exact congrArg _ (if_neg (by rw [free]; nofun))
  · exact congrArg _ (if_neg (by simp [stopped]))
  · exact congrArg _ (if_neg (by simp [stopped]))
  · exact ⟨_, rfl, uTxComplete_sent sending queue⟩
  · obtain ⟨idle, -, sent⟩ := dTxComplete_sent sending queue
    exact ⟨_, rfl, idle, sent⟩
  · rw [evalPauses_eq, evalPauses_eq s]
    exact ⟨rfl, rfl⟩
  · rw [evalPauses_eq, pauseCauseU_eq, pauseCauseD_eq]
    rfl

/-! ### Frames begun and discarded -/

/-- Bytes fill the 46 places of the buffer; one more makes the frame overlong (R7). -/
theorem addBytes_eq (run : List Byte) (r : Receiver) (room : r.buffer.length ≤ 46) :
    r.addBytes run = { r with
      buffer := (r.buffer ++ run).take 46, overlong := r.overlong || decide (46 < r.buffer.length + run.length) } := by
  induction run generalizing r with
  | nil =>
    have short : ¬46 < r.buffer.length := Nat.not_lt.2 room
    simp [Receiver.addBytes, List.take_of_length_le room, short]
  | cons b run ih =>
    have step : r.addBytes (b :: run) = (r.addByte b).addBytes run := rfl
    rw [step, Receiver.addByte]
    by_cases space : r.buffer.length < Config.bufferBytes
    · have longer : (r.buffer ++ [b]).length ≤ 46 := by rw [List.length_append]; exact space
      rw [if_pos space, ih _ longer]
      simp [Nat.add_assoc, Nat.add_comm 1]
    · have full : r.buffer.length = 46 := Nat.le_antisymm room (Nat.not_lt.1 space)
      rw [if_neg space, ih { r with overlong := true } room]
      simp [full]

theorem started_addBytes (run : List Byte) : Receiver.started.addBytes run =
    { receiving := true, buffer := run.take 46, overlong := decide (46 < run.length) } := by
  rw [addBytes_eq run _ (Nat.zero_le _)]
  simp [Receiver.started]

/-- A start symbol outside a reset: the receiver begins anew, and a frame it ends sets LINKERR unless a soft reset is pending
(R7, R9). -/
theorem startFrame_of_free {s : State} (free : s.inReset = false) (p : Port) (run : List Byte) : startFrame p run s =
    if (s.receiver p).receiving && !s.gov.softPending then raise .linkerr (setReceiver p (Receiver.started.addBytes run) s)
    else setReceiver p (Receiver.started.addBytes run) s := by
  unfold startFrame
  rw [if_neg (by rw [free]; nofun)]
  simp only [setReceiver_gov]

theorem roomFor_u_iff (s : State) : s.roomFor .u = true ↔ s.link.dq.length < 16 ∧ s.link.uq.length < 16 := by
  simp only [State.roomFor, Bool.and_eq_true, decide_eq_true_eq]
  show 0 < 16 - s.link.dq.length ∧ 0 < 16 - s.link.uq.length ↔ _
  omega

theorem roomFor_d_iff (s : State) : s.roomFor .d = true ↔ s.link.uq.length < 16 := by
  simp only [State.roomFor, decide_eq_true_eq]
  show 0 < 16 - s.link.uq.length ↔ _
  omega

/-- A frame that fails a check is discarded and sets LINKERR (R7). -/
theorem receiveBytes_of_failed {s : State} {p : Port} {bytes : List Byte} (free : s.inReset = false)
    (calm : s.gov.softPending = false)
    (failed : checkFrame p ((s.receiver p).collect bytes).buffer ((s.receiver p).collect bytes).overlong = none) :
    receiveBytes p bytes s = raise .linkerr (setReceiver p .idle s) := by
  unfold receiveBytes
  rw [completeFrame_of_receiving free calm, failed]

/-- A frame that passes and finds a place taken is an overrun (R8). -/
theorem receiveBytes_of_full {s : State} {p : Port} {bytes : List Byte} {f : InFrame} (free : s.inReset = false)
    (calm : s.gov.softPending = false)
    (passed : checkFrame p ((s.receiver p).collect bytes).buffer ((s.receiver p).collect bytes).overlong = some f)
    (full : s.roomFor p = false) : receiveBytes p bytes s = raise .linkerr (setReceiver p .idle s) := by
  unfold receiveBytes
  rw [completeFrame_of_receiving free calm, passed]
  exact if_neg (by rw [roomFor_setReceiver, full]; nofun)

/-- Settles O8: the four outcomes of a start symbol, and the three ways a completed frame is discarded. -/
theorem framesBegunAndDiscarded : Obligations.FramesBegunAndDiscarded := by
  unfold Obligations.FramesBegunAndDiscarded
  refine ⟨⟨started_addBytes, fun s p run free idle => ?_, fun s p run free receiving calm => ?_,
    fun s p run free receiving pending => ?_⟩, fun s p bytes free =>
    ⟨fun calm failed => congrArg Host.Outcome.next (receiveBytes_of_failed free calm failed),
    fun calm f passed full => congrArg Host.Outcome.next (receiveBytes_of_full free calm passed full),
    fun pending => congrArg Host.Outcome.next (completeFrame_of_pending pending p _)⟩,
    fun s => ⟨roomFor_u_iff s, roomFor_d_iff s⟩⟩
  · refine congrArg Host.Outcome.next ((startFrame_of_free free p run).trans ?_)
    rw [idle]; rfl
  · refine congrArg Host.Outcome.next ((startFrame_of_free free p run).trans ?_)
    rw [receiving, calm]; rfl
  · refine congrArg Host.Outcome.next ((startFrame_of_free free p run).trans ?_)
    rw [receiving, pending]; rfl

end Sys2Proof.Machine
end

section
/-! The frame format (R2 to R7): a frame laid out in bytes reads back as itself, and bytes that pass the checks are the layout of
the frame read from them. -/

namespace Sys2Proof.Machine

/-! ### The check -/

theorem crcBit_eq (c : BitVec 16) (b : Bool) : crcBit c b = if c.getLsbD 15 = b then c <<< 1 else (c <<< 1) ^^^ 0x1021 := by
  have top : c.msb = c.getLsbD 15 := BitVec.msb_eq_getLsbD_last c
  unfold crcBit
  rw [top]
  cases c.getLsbD 15 <;> cases b <;> rfl

theorem crc16_append (bytes : List Byte) (b : Byte) : crc16 (bytes ++ [b]) = crcByte (crc16 bytes) b := by
  rw [crc16, List.foldl_append]; rfl

/-- The check in its direct form (R4): bit by bit, the shifted-out bit against the message's. -/
theorem crc16_append_direct (bytes : List Byte) (b : Byte) : crc16 (bytes ++ [b]) = [7, 6, 5, 4, 3, 2, 1, 0].foldl
    (fun (c : BitVec 16) (i : Nat) => if c.getLsbD 15 = b.getLsbD i then c <<< 1 else (c <<< 1) ^^^ 0x1021) (crc16 bytes) := by
  rw [crc16_append, crcByte]
  exact congrFun (congrFun (congrArg List.foldl (funext fun c => funext fun i => crcBit_eq c _)) _) _

/-! ### Payloads -/

/-- A payload reads back as the fields it was laid out from (R5). -/
theorem readPayload_payload (f : InFrame) : readPayload f.kind f.header f.payload = some f := by
  cases f with
  | moveAbs h x y speed via | moveRel h x y speed via =>
    have hx := coord_join x
    have hy := coord_join y
    have hv := word_join speed
    simp [readPayload, InFrame.kind, InFrame.header, InFrame.payload, coordAt, wordAt, byteAt, coordBytes, wordBytes, hx, hy, hv]
  | setup h enables scale turn offset tag =>
    have hx := coord_join offset.x
    have hy := coord_join offset.y
    simp [readPayload, InFrame.kind, InFrame.header, InFrame.payload, pointAt, pointBytes, coordAt, byteAt, coordBytes, hx, hy]
  | stopCarriage h => simp [readPayload, InFrame.kind, InFrame.header]
  | transit h payload => simp [readPayload, InFrame.kind, InFrame.header, InFrame.payload]
  | mgmtReq h request rid ops => simp [readPayload, InFrame.kind, InFrame.header, InFrame.payload, byteAt]
  | done h p stopped =>
    have hx := coord_join p.x
    have hy := coord_join p.y
    simp [readPayload, InFrame.kind, InFrame.header, InFrame.payload, pointAt, pointBytes, coordAt, byteAt, coordBytes, hx, hy]
  | contact h p =>
    have hx := coord_join p.x
    have hy := coord_join p.y
    simp [readPayload, InFrame.kind, InFrame.header, InFrame.payload, pointAt, pointBytes, coordAt, byteAt, coordBytes, hx, hy]

/-- The lengths that a kind's fields give are the lengths its frames allow (R5). -/
theorem lengthAllowed_payload {f : InFrame} (fits : f.fits = true) : lengthAllowed f.kind f.payload.length = true := by
  have short : f.payload.length ≤ 40 := of_decide_eq_true fits
  cases f with
  | transit h payload => exact decide_eq_true short
  | mgmtReq h request rid ops =>
    have long : 2 ≤ (request :: rid :: ops).length := Nat.le_add_left _ _
    exact Bool.and_eq_true_iff.2 ⟨decide_eq_true long, decide_eq_true short⟩
  | moveAbs | moveRel | setup | stopCarriage | done | contact => rfl

/-- The fields read from a payload of nine bytes are laid out as these nine bytes. -/
theorem movePayload_read {l : List Byte} (nine : l.length = 9) :
    coordBytes (coordAt l 0) ++ coordBytes (coordAt l 3) ++ wordBytes (wordAt l 6) ++ [byteAt l 8] = l := by
  match l, nine with
  | [a, b, c, d, e, f, g, h, i], _ =>
    have x := coordBytes_join a b c
    have y := coordBytes_join d e f
    have v := wordBytes_join g h
    simp [coordAt, wordAt, byteAt, x, y, v]

theorem pointPayload_read {l : List Byte} (six : l.length = 6) : pointBytes (pointAt l 0) = l := by
  match l, six with
  | [a, b, c, d, e, f], _ =>
    have x := coordBytes_join a b c
    have y := coordBytes_join d e f
    simp [pointBytes, pointAt, coordAt, byteAt, x, y]

theorem donePayload_read {l : List Byte} (seven : l.length = 7) : pointBytes (pointAt l 0) ++ [byteAt l 6] = l := by
  match l, seven with
  | [a, b, c, d, e, f, g], _ =>
    have x := coordBytes_join a b c
    have y := coordBytes_join d e f
    simp [pointBytes, pointAt, coordAt, byteAt, x, y]

theorem setupPayload_read {l : List Byte} (ten : l.length = 10) :
    [byteAt l 0, byteAt l 1, byteAt l 2] ++ pointBytes (pointAt l 3) ++ [byteAt l 9] = l := by
  match l, ten with
  | [p, q, r, a, b, c, d, e, f, g], _ =>
    have x := coordBytes_join a b c
    have y := coordBytes_join d e f
    simp [pointBytes, pointAt, coordAt, byteAt, x, y]

theorem requestPayload_read {l : List Byte} (two : 2 ≤ l.length) : byteAt l 0 :: byteAt l 1 :: l.drop 2 = l := by
  match l, two with
  | a :: b :: rest, _ => rfl

/-- What is read from a payload of an allowed length has that kind, header and payload (R5, R7). -/
theorem readPayload_some {kind : Byte} {h : Header} {l : List Byte} {f : InFrame} (allowed : lengthAllowed kind l.length = true)
    (read : readPayload kind h l = some f) : f.kind = kind ∧ f.header = h ∧ f.payload = l := by
  unfold readPayload at read
  unfold lengthAllowed at allowed
  split at read
  next eq =>
    subst eq; cases read
    exact ⟨rfl, rfl, movePayload_read (by simpa using allowed)⟩
  split at read
  next eq =>
    subst eq; cases read
    exact ⟨rfl, rfl, movePayload_read (by simpa using allowed)⟩
  split at read
  next eq =>
    subst eq; cases read
    exact ⟨rfl, rfl, setupPayload_read (by simpa using allowed)⟩
  split at read
  next eq =>
    subst eq; cases read
    have empty : l.length = 0 := by simpa using allowed
    exact ⟨rfl, rfl, (List.length_eq_zero_iff.1 empty).symm⟩
  split at read
  next eq =>
    subst eq; cases read
    exact ⟨rfl, rfl, rfl⟩
  split at read
  next eq =>
    subst eq; cases read
    have long : 2 ≤ l.length ∧ l.length ≤ 40 := by simpa using allowed
    exact ⟨rfl, rfl, requestPayload_read long.1⟩
  split at read
  next eq =>
    subst eq; cases read
    exact ⟨rfl, rfl, donePayload_read (by simpa using allowed)⟩
  split at read
  next eq =>
    subst eq; cases read
    exact ⟨rfl, rfl, pointPayload_read (by simpa using allowed)⟩
  next => cases read

theorem length_le_of_allowed {kind : Byte} {n : Nat} (allowed : lengthAllowed kind n = true) : n ≤ 40 := by
  unfold lengthAllowed at allowed
  split_ifs at allowed <;> simp only [Bool.and_eq_true, decide_eq_true_eq] at allowed <;> omega

/-! ### Whole frames -/

theorem frameBody_length (kind : Byte) (h : Header) (payload : List Byte) : (frameBody kind h payload).length = payload.length + 4 := rfl

theorem frameBytes_length (kind : Byte) (h : Header) (payload : List Byte) :
    (frameBytes kind h payload).length = payload.length + 6 := by
  rw [frameBytes, List.length_append, frameBody_length, wordBytes_length]

/-- A frame laid out by the part passes check 1 of R7. -/
theorem crcPasses_frameBytes (kind : Byte) (h : Header) (payload : List Byte) : crcPasses (frameBytes kind h payload) false = true := by
  have body : (frameBytes kind h payload).length - 2 = (frameBody kind h payload).length := by
    rw [frameBytes_length, frameBody_length]; omega
  have long : 6 ≤ (frameBytes kind h payload).length := by rw [frameBytes_length]; omega
  have check : wordAt (frameBytes kind h payload) (frameBody kind h payload).length = crc16 (frameBody kind h payload) := by
    have read := wordAt_wordBytes (frameBody kind h payload) [] (crc16 (frameBody kind h payload))
    rwa [List.append_nil] at read
  have front : (frameBytes kind h payload).take (frameBody kind h payload).length = frameBody kind h payload := List.take_left
  unfold crcPasses
  rw [body, check, front]
  simp [long]

/-- The header of a laid-out frame reads back (R2). -/
theorem headerAt_frameBytes (kind : Byte) (h : Header) {payload : List Byte} (short : payload.length ≤ 40) :
    headerAt (frameBytes kind h payload) = h := by
  obtain ⟨source, carriage⟩ := header_byte1 h
  obtain ⟨level, -⟩ := header_byte2 h payload.length (by omega)
  show { source := _, carriage := _, level := _, sequence := h.sequence : Header } = h
  exact Header.mk.injEq .. ▸ ⟨source, carriage, level, rfl⟩

/-- A laid-out frame of an accepted kind and an allowed length passes the receive checks, and its payload is read (R7). -/
theorem checkFrame_frameBytes {p : Port} {kind : Byte} (h : Header) {payload : List Byte} (accepted : kindAccepted p kind = true)
    (allowed : lengthAllowed kind payload.length = true) :
    checkFrame p (frameBytes kind h payload) false = readPayload kind h payload := by
  have short := length_le_of_allowed allowed
  have first : byteAt (frameBytes kind h payload) 0 = kind := rfl
  have third : byteAt (frameBytes kind h payload) 2 = headerByte2 h payload.length := rfl
  have length := (header_byte2 h payload.length (by omega)).2
  have received : (frameBytes kind h payload).length - 6 = payload.length := by rw [frameBytes_length]; omega
  have inner : ((frameBytes kind h payload).drop 4).take payload.length = payload := List.take_left
  unfold checkFrame
  dsimp only
  rw [crcPasses_frameBytes, first, accepted, third, length, allowed, received, inner, headerAt_frameBytes kind h short]
  simp

/-- Every frame of a kind the port accepts reads back as itself (R3, R7). -/
theorem checkFrame_bytes {p : Port} {f : InFrame} (accepted : kindAccepted p f.kind = true) (fits : f.fits = true) :
    checkFrame p f.bytes false = some f :=
  (checkFrame_frameBytes f.header accepted (lengthAllowed_payload fits)).trans (readPayload_payload f)

/-- A run of at least four bytes is its first four and the rest. -/
theorem bytes_eq_header (bytes : List Byte) (long : 4 ≤ bytes.length) :
    bytes = byteAt bytes 0 :: byteAt bytes 1 :: byteAt bytes 2 :: byteAt bytes 3 :: bytes.drop 4 := by
  match bytes, long with
  | a :: b :: c :: d :: rest, _ => rfl

/-- The last two bytes of a run are the word at its end. -/
theorem wordBytes_last (bytes : List Byte) (n : Nat) (last : bytes.length = n + 2) : wordBytes (wordAt bytes n) = bytes.drop n := by
  rw [wordAt, wordBytes_join, byteAt, byteAt, List.drop_eq_getElem_cons (by omega), List.drop_eq_getElem_cons (by omega),
    List.drop_of_length_le (by omega), List.getD_eq_getElem _ _ (by omega), List.getD_eq_getElem _ _ (by omega)]

/-- Bytes that pass the receive checks are the layout of the frame read from them (R7). -/
theorem bytes_of_checkFrame {p : Port} {bytes : List Byte} {overlong : Bool} {f : InFrame}
    (passed : checkFrame p bytes overlong = some f) :
    f.bytes = bytes ∧ kindAccepted p f.kind = true ∧ f.fits = true := by
  unfold checkFrame at passed
  dsimp only at passed
  split at passed
  next => cases passed
  next crc =>
  split at passed
  next => cases passed
  next accepted =>
  split at passed
  next => cases passed
  next allowed =>
  split at passed
  next => cases passed
  next received =>
  simp only [Bool.not_eq_false] at crc accepted allowed
  simp only [ne_eq, not_not] at received
  simp only [crcPasses, Bool.and_eq_true, decide_eq_true_eq] at crc
  obtain ⟨⟨long, -⟩, check⟩ := crc
  have size : ((bytes.drop 4).take (bytes.length - 6)).length = bytes.length - 6 := by
    rw [List.length_take, List.length_drop]; omega
  rw [received, ← size] at allowed
  obtain ⟨kind, header, payload⟩ := readPayload_some allowed passed
  obtain ⟨byte1, byte2⟩ := header_bytes_read bytes
  rw [received] at byte2
  have body : frameBody f.kind f.header f.payload = bytes.take (bytes.length - 2) := by
    have front := bytes_eq_header (bytes.take (bytes.length - 2)) (by rw [List.length_take]; omega)
    have at_ : ∀ i, i < 4 → byteAt (bytes.take (bytes.length - 2)) i = byteAt bytes i := fun i small => by
      rw [byteAt, byteAt, List.getD_eq_getElem?_getD, List.getD_eq_getElem?_getD, List.getElem?_take_of_lt (by omega)]
    have inner : (bytes.take (bytes.length - 2)).drop 4 = (bytes.drop 4).take (bytes.length - 6) := by
      rw [List.drop_take, Nat.sub_sub]
    rw [front, at_ 0 (by omega), at_ 1 (by omega), at_ 2 (by omega), at_ 3 (by omega), inner, frameBody, kind, header, payload, size,
      byte1, byte2]
    rfl
  refine ⟨?_, by rw [kind]; exact accepted, decide_eq_true (by rw [payload, size]; exact size ▸ length_le_of_allowed allowed)⟩
  calc f.bytes = frameBody f.kind f.header f.payload ++ wordBytes (crc16 (frameBody f.kind f.header f.payload)) := rfl
    _ = bytes.take (bytes.length - 2) ++ wordBytes (wordAt bytes (bytes.length - 2)) := by rw [body, check]
    _ = bytes.take (bytes.length - 2) ++ bytes.drop (bytes.length - 2) := by rw [wordBytes_last _ _ (by omega)]
    _ = bytes := List.take_append_drop _ _

/-! ### The obligations -/

/-- Settles O9: the bytes read back as the frame, so both commands complete the same frame. -/
theorem typedFramesAreTheirBytes : Obligations.TypedFramesAreTheirBytes := by
  unfold Obligations.TypedFramesAreTheirBytes
  intro s p f bytes accepted fits collected
  have same : receiveBytes p bytes s = receive p f s := by
    unfold receiveBytes receive
    rw [collected]
    dsimp only
    rw [checkFrame_bytes accepted fits, fits, accepted]
    rfl
  rw [exec_frame accepted, ← same]
  exact ⟨rfl, rfl, rfl⟩

/-- Settles O11. -/
theorem receivedFrameKeepsItsBytes : Obligations.ReceivedFrameKeepsItsBytes := fun _ _ _ _ => bytes_of_checkFrame

/-- Settles O10: read-back from the header and payload lemmas; the layouts are those of the definitions, kind by kind. -/
theorem frameFormatReadsBack : Obligations.FrameFormatReadsBack := by
  unfold Obligations.FrameFormatReadsBack
  refine ⟨fun p f => checkFrame_bytes, fun kind => ⟨by simp [kindAccepted, or_assoc], by simp [kindAccepted, or_assoc]⟩,
    ⟨rfl, crc16_append_direct⟩, fun f => ?_, fun f => ?_, rfl, fun f => ?_, fun v => rfl, fun w => rfl,
    fun bytes i => List.getD_eq_getElem?_getD⟩
  · cases f <;> rfl
  · cases f <;> rfl
  · cases f with
    | verdict h v r adjusted speed => cases v <;> cases r <;> rfl
    | mgmtRsp h request rid status data => cases status <;> rfl
    | doneUp | contactUp | transit => rfl

end Sys2Proof.Machine
end

section
/-! Transmission (R15 to R17) and translation (R26, R32, R33). -/

namespace Sys2Proof.Machine

/-! ### Transmission -/

/-- The frames queued behind a completed one keep their places (R12). -/
theorem uTxComplete_of_other {s : State} {e : UEntry} {rest : List UEntry} (sending : s.link.sendingU = true)
    (queue : s.link.uq = e :: rest) (other : e.answersReset = false ∨ s.gov.softPending = false) :
    uTxComplete s = announceUq
      { s with link := { s.link with sendingU := false, uq := rest }, wireU := s.wireU ++ [.frame e.frame.bytes] } := by
  have notReset : (e.answersReset && s.gov.softPending) = false := by
    rcases other with h | h <;> rw [h]
    · rfl
    · exact Bool.and_false _
  unfold uTxComplete
  rw [if_pos sending, queue]
  dsimp only
  rw [if_neg (by rw [notReset]; nofun)]

theorem Traffic.uq_prefix {s t : State} (h : Traffic s t) : s.link.uq <+: t.link.uq := by
  obtain ⟨frames, uq⟩ := h.uq
  rw [uq]
  exact List.prefix_append _ _

theorem traffic_announceUq (s : State) : Traffic s (announceUq s) :=
  ((traffic_evalPauses s).trans (internals_feed _).traffic).trans (internals_servePending _).traffic

theorem uTxComplete_traffic {s : State} {e : UEntry} {rest : List UEntry} (sending : s.link.sendingU = true)
    (queue : s.link.uq = e :: rest) (other : e.answersReset = false ∨ s.gov.softPending = false) :
    Traffic { s with link := { s.link with sendingU := false, uq := rest }, wireU := s.wireU ++ [.frame e.frame.bytes] }
      (uTxComplete s) := by
  rw [uTxComplete_of_other sending queue other]
  exact traffic_announceUq _

theorem dTxComplete_of_frame {s : State} {f : DFrame} {rest : List DFrame} (sending : s.link.txD = .frame)
    (queue : s.link.dq = f :: rest) : dTxComplete s = announceDq (f.whenSent
      { s with link := { s.link with txD := .idle, dq := rest }, wireD := s.wireD ++ [.frame f.bytes] }) := by
  simp [dTxComplete, sending, queue]

theorem whenSent_of_other {f : DFrame} (other : ∀ h p v, f ≠ .driveMove h p v) (s : State) : f.whenSent s = s := by
  cases f with
  | driveMove h p v => exact absurd rfl (other h p v)
  | driveStop | heartbeat | transit => rfl

/-- A MOVING carriage's record is found by its source and sequence (R67, R70). -/
theorem movingRecord_of_moving {x : Context} {r : InFlight} {source : Source} {sequence : Byte} (moving : x.state = .moving)
    (record : x.inFlight = some r) (fromSource : r.source = source) (numbered : r.sequence = sequence) :
    x.movingRecord source sequence = some r := by
  simp [Context.movingRecord, moving, record, fromSource, numbered]

/-- A DRIVE_MOVE that has been sent marks its record (R67). -/
theorem whenSent_driveMove {h : Header} {r : InFlight} {s : State} (p : Point) (v : Speed)
    (moving : (s.ctx h.carriage).state = .moving) (record : (s.ctx h.carriage).inFlight = some r) (source : r.source = h.source)
    (sequence : r.sequence = h.sequence) :
    (DFrame.driveMove h p v).whenSent s =
      setCtx h.carriage { s.ctx h.carriage with inFlight := some { r with sent := true } } s :=
  markSent_of_record (movingRecord_of_moving moving record source sequence)

/-- Every zone marked recheck pending is re-examined, in increasing index order (R112). -/
theorem servePending_eq (s : State) : servePending s =
    (List.finRange 64).foldl (fun u (z : ZoneIndex) => if u.occ.recheck[z] then reexamine z u else u) s := by
  rw [servePending]

theorem announceUq_eq (s : State) : announceUq s = (List.finRange 64).foldl
    (fun u (z : ZoneIndex) => if u.occ.recheck[z] then reexamine z u else u) (feed (evalPauses s)) := servePending_eq _

theorem announceDq_eq (s : State) : announceDq s = (List.finRange 64).foldl
    (fun u (z : ZoneIndex) => if u.occ.recheck[z] then reexamine z u else u) (evalPauses s) := servePending_eq _

/-- Settles O15: what a transmitter begins and completes, and that each gain of places is announced. -/
theorem transmission : Obligations.Transmission := by
  unfold Obligations.Transmission
  dsimp only
  refine ⟨fun s => ⟨fun idle permitted frames => ?_, fun stuck => ?_, fun idle permitted slot => ?_,
    fun idle permitted slot frames => ?_, fun stuck => ?_⟩, fun s e rest sending queue other => ⟨?_, ?_⟩,
    fun s f rest sending queue => ⟨⟨_, rfl, dTxComplete_sent sending queue⟩, fun other => ?_,
      fun h p v r drive moving record source sequence => ?_⟩, fun s sending => ?_⟩
  · refine congrArg Host.Outcome.next (?_ : uTxStart s = _)
    simp [uTxStart, idle, permitted, frames]
  · refine congrArg Host.Outcome.next (?_ : uTxStart s = _)
    rcases stuck with h | h | h <;> simp [uTxStart, h]
  · refine congrArg Host.Outcome.next (?_ : dTxStart s = _)
    simp [dTxStart, idle, permitted, slot]
  · refine congrArg Host.Outcome.next (?_ : dTxStart s = _)
    simp [dTxStart, idle, permitted, slot, frames]
  · refine congrArg Host.Outcome.next (?_ : dTxStart s = _)
    unfold dTxStart
    rcases stuck with h | h | ⟨slot, empty⟩
    · simp [h]
    · simp [h]
    · simp [slot, empty]
  · have traffic := uTxComplete_traffic sending queue other
    obtain ⟨_, _, _, _, link⟩ := traffic.link
    exact ⟨_, rfl, by rw [link], traffic.uq_prefix, traffic.wireU⟩
  · exact congrArg Host.Outcome.next ((uTxComplete_of_other sending queue other).trans (announceUq_eq _))
  · refine congrArg Host.Outcome.next ((dTxComplete_of_frame sending queue).trans ?_)
    rw [whenSent_of_other other]
    exact announceDq_eq _
  · subst drive
    refine congrArg Host.Outcome.next ((dTxComplete_of_frame sending queue).trans ?_)
    exact (congrArg announceDq (whenSent_driveMove (s := { s with
      link := { s.link with txD := .idle, dq := rest }, wireD := s.wireD ++ [.frame (DFrame.driveMove h p v).bytes] })
      p v moving record source sequence)).trans (announceDq_eq _)
  · refine congrArg Host.Outcome.next (?_ : dTxComplete s = _)
    simp [dTxComplete, sending]

/-! ### Translation -/

theorem inRange_iff (v : Int) : inRange v = true ↔ -8388608 ≤ v ∧ v ≤ 8388607 := by simp [inRange]

theorem bothInRange_iff (v : Int × Int) : bothInRange v = true ↔
    (-8388608 ≤ v.1 ∧ v.1 ≤ 8388607) ∧ -8388608 ≤ v.2 ∧ v.2 ≤ 8388607 := by
  rw [bothInRange, Bool.and_eq_true, inRange_iff, inRange_iff]

/-- The coordinates are exactly the values of the range (R26). -/
theorem ofInt_eq_iff (v : Int) (c : Coord) : (-8388608 ≤ v ∧ v ≤ 8388607) ∧ BitVec.ofInt 24 v = c ↔ c.toInt = v := by
  constructor
  · rintro ⟨⟨low, high⟩, rfl⟩
    exact BitVec.toInt_ofInt_eq_self (by decide) low (by omega)
  · rintro rfl
    have low := BitVec.le_toInt c
    have high := BitVec.toInt_lt (x := c)
    exact ⟨⟨by omega, by omega⟩, BitVec.ofInt_toInt⟩

/-- A pair of sums is a target exactly when it is a point on the floor (R32 stage 3, R33). -/
theorem onFloorTarget_iff (t : ZoneTable) (v : Int × Int) (p : Point) :
    onFloorTarget t v = some p ↔ p.x.toInt = v.1 ∧ p.y.toInt = v.2 ∧ t.onFloor p = true := by
  rw [← ofInt_eq_iff, ← ofInt_eq_iff]
  unfold onFloorTarget
  dsimp only
  constructor
  · intro found
    split at found
    next good =>
      cases found
      obtain ⟨range, floor⟩ := Bool.and_eq_true_iff.1 good
      obtain ⟨first, second⟩ := (bothInRange_iff v).1 range
      exact ⟨⟨first, rfl⟩, ⟨second, rfl⟩, floor⟩
    next => cases found
  · rintro ⟨⟨first, x⟩, ⟨second, y⟩, floor⟩
    have point : ({ x := BitVec.ofInt 24 v.1, y := BitVec.ofInt 24 v.2 } : Point) = p := by rw [x, y]
    rw [point, if_pos (Bool.and_eq_true_iff.2 ⟨(bothInRange_iff v).2 ⟨first, second⟩, floor⟩)]

/-- A relative move is scaled, turned and placed, each stage in range (R32). -/
theorem translateRel_iff (t : ZoneTable) (x : Context) (dx dy : Coord) (p : Point) :
    translateRel t x dx dy = some p ↔
      bothInRange (dx.toInt * x.scale.toNat, dy.toInt * x.scale.toNat) = true ∧
      bothInRange (turnVector x.turn (dx.toInt * x.scale.toNat, dy.toInt * x.scale.toNat)) = true ∧
      onFloorTarget t (x.position.x.toInt + (turnVector x.turn (dx.toInt * x.scale.toNat, dy.toInt * x.scale.toNat)).1,
        x.position.y.toInt + (turnVector x.turn (dx.toInt * x.scale.toNat, dy.toInt * x.scale.toNat)).2) = some p := by
  unfold translateRel
  dsimp only
  split
  next out => simp [out]
  next fits =>
    split
    next out => simp [out]
    next turned =>
      rw [Bool.not_eq_false] at fits turned
      simp [fits, turned]

/-- The turn of a vector by its number of quarter-turns (R32). -/
theorem turnVector_eq (k : Fin 4) (v : Int × Int) : turnVector k v =
    (if k = 0 then v.1 else if k = 1 then -v.2 else if k = 2 then -v.1 else v.2,
     if k = 0 then v.2 else if k = 1 then v.1 else if k = 2 then -v.2 else -v.1) := by
  match k with
  | 0 | 1 | 2 | 3 => rfl

theorem onFloor_iff (t : ZoneTable) (p : Point) : t.onFloor p = true ↔
    t.floorValid = true ∧ t.floorBox.x0.toInt ≤ p.x.toInt ∧ p.x.toInt ≤ t.floorBox.x1.toInt ∧
      t.floorBox.y0.toInt ≤ p.y.toInt ∧ p.y.toInt ≤ t.floorBox.y1.toInt := by
  rw [ZoneTable.onFloor, Bool.and_eq_true, Box.holds_iff]

/-- Settles O18: the stages in their order, each a range test. -/
theorem translation : Obligations.Translation := by
  unfold Obligations.Translation
  intro ok
  refine ⟨fun t x dx dy p => ?_, fun t c x y p => onFloorTarget_iff t _ p, onFloor_iff⟩
  rw [translateRel_iff, onFloorTarget_iff, turnVector_eq, bothInRange_iff, bothInRange_iff]
  exact ⟨fun ⟨⟨a, b⟩, ⟨c, d⟩, e, f, g⟩ => ⟨a, b, c, d, e, f, g⟩, fun ⟨a, b, c, d, e, f, g⟩ => ⟨⟨a, b⟩, ⟨c, d⟩, e, f, g⟩⟩

end Sys2Proof.Machine
end

section
/-! The requests on the floor, the sources and the carriages, and SETUP, judged step by step. -/

namespace Sys2Proof.Machine

/-! ### Operands -/

theorem carriageOf_eq_some {b : Byte} {c : Carriage} (names : b.toNat = c.val) : carriageOf b = some c := index_eq_some names

theorem carriageOf_eq_none {b : Byte} (beyond : 31 < b.toNat) : carriageOf b = none := dif_neg (Nat.not_lt.2 beyond)

theorem levelOf_eq_some {b : Byte} {l : Level} (names : b.toNat = l.val) : levelOf b = some l := index_eq_some names

theorem levelOf_eq_none {b : Byte} (beyond : 3 < b.toNat) : levelOf b = none := dif_neg (Nat.not_lt.2 beyond)

theorem zoneIndexOf_eq_some {b : Byte} {i : ZoneIndex} (names : b.toNat = i.val) : zoneIndexOf b = some i := index_eq_some names

theorem zoneIndexOf_eq_none {b : Byte} (beyond : 63 < b.toNat) : zoneIndexOf b = none := dif_neg (Nat.not_lt.2 beyond)

theorem zoneOf_eq_some {b : Byte} {z : Zone} (names : b.toNat = z.val) : zoneOf b = some z := index_eq_some names

theorem zoneOf_eq_none {b : Byte} (beyond : 64 < b.toNat) : zoneOf b = none := dif_neg (Nat.not_lt.2 beyond)

theorem boolOf_eq_some {b : Byte} (small : b.toNat ≤ 1) : boolOf b = some (decide (b = 1)) := by
  have cases : b = 0 ∨ b = 1 := by bv_omega
  rcases cases with rfl | rfl <;> rfl

theorem boolOf_eq_none {b : Byte} (large : 1 < b.toNat) : boolOf b = none := by
  have apart : b ≠ 0 ∧ b ≠ 1 := by constructor <;> rintro rfl <;> exact absurd large (by decide)
  rw [boolOf, if_neg apart.1, if_neg apart.2]

/-! ### All contexts -/

theorem all_carriages (s : State) (f : Context → Bool) : s.carriages.toList.all f = true ↔ ∀ c, f (s.ctx c) = true := by
  simp only [List.all_eq_true, Vector.mem_toList_iff]
  refine ⟨fun h c => h _ (Vector.getElem_mem _), fun h x mem => ?_⟩
  obtain ⟨i, small, eq⟩ := Vector.mem_iff_getElem.1 mem
  exact eq ▸ h ⟨i, small⟩

theorem any_carriages (s : State) (f : Context → Bool) : s.carriages.toList.any f = true ↔ ∃ c, f (s.ctx c) = true := by
  rw [← not_iff_not, Bool.not_eq_true, List.any_eq_false, not_exists]
  have all := all_carriages s fun x => !f x
  simp only [List.all_eq_true, Bool.not_eq_true'] at all
  simpa only [Bool.not_eq_true] using all

theorem Context.enrolled_iff (x : Context) : x.enrolled = true ↔ x.state ≠ .unenrolled := decide_eq_true_iff

theorem Context.enrolled_eq_false {x : Context} : x.enrolled = false ↔ x.state = .unenrolled := by
  rw [← Bool.not_eq_true, Context.enrolled_iff, not_not]

/-! ### SET_FLOOR and WRITE_SOURCE -/

theorem Box.ordered_iff (b : Box) : b.ordered = true ↔ b.x0.toInt ≤ b.x1.toInt ∧ b.y0.toInt ≤ b.y1.toInt := by
  simp [Box.ordered]

/-- The test of R24 step 4, over the carriages. -/
theorem floorFits_iff (s : State) (b : Box) : s.floorFits b = true ↔
    (∀ k : Carriage, (s.ctx k).state ≠ .unenrolled → b.holds (s.ctx k).position = true) ∧
      ∀ k : Carriage, ∀ r ∈ (s.ctx k).inFlight, b.holds r.target = true := by
  rw [State.floorFits, all_carriages, ← forall_and]
  refine forall_congr' fun k => ?_
  rw [Bool.and_eq_true]
  refine and_congr ?_ ?_
  · rw [Bool.or_eq_true, Bool.not_eq_true', Context.enrolled_eq_false, or_iff_not_imp_left]
  · cases (s.ctx k).inFlight with
    | none => simp
    | some r => simp

theorem floorFits_setReceiver (s : State) (b : Box) (p : Port) (r : Receiver) : (setReceiver p r s).floorFits b = s.floorFits b := by
  rw [State.floorFits, setReceiver_carriages]; rfl

/-- SET_FLOOR's steps behind the lock (R24). -/
theorem reqSetFloor_unlocked {s : State} (unlocked : s.gov.lock = false) (ops : List Byte) : reqSetFloor ops s =
    if s.gov.state ≠ .standby then .refuse .state s
    else if (boxAt ops 0).ordered = false then .refuse .badValue s
    else if s.floorFits (boxAt ops 0) = false then .refuse .inUse s
    else .ok (withFloor (boxAt ops 0) s) := by
  unfold reqSetFloor
  dsimp only
  rw [if_neg (by rw [unlocked]; nofun)]
  rfl

theorem reqWriteSource_beyond {s : State} (unlocked : s.gov.lock = false) {i e k m : Byte} (beyond : 7 < i.toNat) :
    reqWriteSource [i, e, k, m] s = .refuse .badIndex s := by
  have index : sourceOf (byteAt [i, e, k, m] 0) = none := sourceOf_eq_none beyond
  rw [reqWriteSource, if_neg (by rw [unlocked]; nofun), index]

theorem reqWriteSource_named {s : State} (unlocked : s.gov.lock = false) {i e k m : Byte} {n : Source} (names : i.toNat = n.val) :
    reqWriteSource [i, e, k, m] s = match boolOf e, levelOf k, boolOf m with
      | some enabled, some ceiling, some mayManage =>
        .ok { s with sources := s.sources.set n.val { enabled, ceiling, mayManage } }
      | _, _, _ => .refuse .badValue s := by
  have index : sourceOf (byteAt [i, e, k, m] 0) = some n := sourceOf_eq_some names
  rw [reqWriteSource, if_neg (by rw [unlocked]; nofun), index]
  rfl

/-- Settles O20: each refusal at its step, with the operand tests read as ranges. -/
theorem setFloorAndWriteSourceJudged : Obligations.SetFloorAndWriteSourceJudged := by
  unfold Obligations.SetFloorAndWriteSourceJudged
  refine ⟨fun s h rid ops takes manages length => ?_, fun s h rid i e k m takes manages => ?_⟩
  · intro c coord b ordered fits
    have box : boxAt ops 0 = b := rfl
    have ordered_iff : b.ordered = true ↔ ordered := Box.ordered_iff b
    have fits_iff : (setReceiver .u .idle s).floorFits b = true ↔ fits := by rw [floorFits_setReceiver]; exact floorFits_iff s b
    have judged := fun unlocked : s.gov.lock = false =>
      reqSetFloor_unlocked (s := setReceiver .u .idle s) (by rwa [setReceiver_gov]) ops
    simp only [box, setReceiver_gov] at judged
    refine ⟨fun locked => answers_locked (r := .setFloor) (by decide) locked takes manages length, fun unlocked running => ?_,
      fun unlocked standby disorder => ?_, fun unlocked standby inOrder outside => ?_, fun unlocked standby inOrder inside => ?_⟩
    · exact answers_of_refused (r := .setFloor) takes manages length nofun ((judged unlocked).trans (if_pos running))
    · refine answers_of_refused (r := .setFloor) takes manages length nofun ((judged unlocked).trans ?_)
      rw [if_neg (not_not.2 standby), if_pos (Bool.not_eq_true _ ▸ mt ordered_iff.1 disorder)]
    · refine answers_of_refused (r := .setFloor) takes manages length nofun ((judged unlocked).trans ?_)
      rw [if_neg (not_not.2 standby), if_neg (by rw [ordered_iff.2 inOrder]; nofun),
        if_pos (Bool.not_eq_true _ ▸ mt fits_iff.1 outside)]
    · refine answersOk_of_ok (r := .setFloor) takes manages length nofun ((judged unlocked).trans ?_)
      rw [if_neg (not_not.2 standby), if_neg (by rw [ordered_iff.2 inOrder]; nofun),
        if_neg (by rw [fits_iff.2 inside]; nofun)]
      rfl
  · intro c bad
    have unlocked_here : s.gov.lock = false → (setReceiver .u .idle s).gov.lock = false := id
    refine ⟨fun locked => answers_locked (r := .writeSource) (by decide) locked takes manages rfl, fun unlocked beyond => ?_,
      fun unlocked within outside => ?_, fun unlocked good n l names level => ?_⟩
    · exact answers_of_refused (r := .writeSource) takes manages rfl nofun (reqWriteSource_beyond (unlocked_here unlocked) beyond)
    · have names : i.toNat = (⟨i.toNat, Nat.lt_succ_of_le within⟩ : Source).val := rfl
      refine answers_of_refused (r := .writeSource) takes manages rfl nofun
        ((reqWriteSource_named (unlocked_here unlocked) names).trans ?_)
      split
      next enabled level manages =>
        rcases outside with large | large | large
        · rw [boolOf_eq_none large] at enabled; cases enabled
        · rw [boolOf_eq_none large] at manages; cases manages
        · rw [levelOf_eq_none large] at level; cases level
      next => rfl
    · simp only [bad, not_or, Nat.not_lt] at good
      obtain ⟨enabled, may, -⟩ := good
      refine answersOk_of_ok (r := .writeSource) takes manages rfl nofun
        ((reqWriteSource_named (unlocked_here unlocked) names).trans ?_)
      rw [boolOf_eq_some enabled, levelOf_eq_some level, boolOf_eq_some may, setReceiver_sources]

/-! ### SETUP -/

/-- A frame of port U that carries a move, a SETUP or a STOP_CARRIAGE arrives. -/
theorem exec_arrived_u {s : State} {f : InFrame} (takes : s.TakesU) (fits : f.fits = true) (accepted : kindAccepted .u f.kind = true) :
    exec (f.command .u) s = .next (handOn .u f (setReceiver .u .idle s)) := by
  rw [exec_frame accepted, receive_u takes fits accepted]

theorem exec_arrived_d {s : State} {f : InFrame} (takes : s.TakesD) (fits : f.fits = true) (accepted : kindAccepted .d f.kind = true) :
    exec (f.command .d) s = .next (handOn .d f (setReceiver .d .idle s)) := by
  rw [exec_frame accepted, receive_d takes fits accepted]

theorem setupInRange_iff (enables scale turn tag : Byte) : setupInRange enables scale turn tag = true ↔
    (enables.getLsbD 0 = true → 1 ≤ scale.toNat ∧ scale.toNat ≤ 16) ∧ (enables.getLsbD 1 = true → turn.toNat ≤ 3) ∧
      (enables.getLsbD 3 = true → tag.toNat ≤ 127) := by
  simp only [setupInRange, Bool.and_eq_true, Bool.or_eq_true, Bool.not_eq_true', decide_eq_true_eq, and_assoc]
  refine and_congr ?_ (and_congr ?_ ?_) <;> rw [← Bool.not_eq_true, or_iff_not_imp_left, not_not]

/-- What a SETUP writes, field by field (R29). -/
theorem Context.setUp_fields (x : Context) {enables scale turn tag : Byte} (offset : Point)
    (good : setupInRange enables scale turn tag = true) :
    (x.setUp enables scale turn offset tag).turn.val = (if enables.getLsbD 1 then turn.toNat else x.turn.val) ∧
      (x.setUp enables scale turn offset tag).tag.toNat = (if enables.getLsbD 3 then tag.toNat else x.tag.toNat) := by
  obtain ⟨-, turns, tags⟩ := (setupInRange_iff ..).1 good
  constructor
  · simp only [Context.setUp]
    split
    next on => exact Nat.mod_eq_of_lt (Nat.lt_succ_of_le (turns on))
    next => rfl
  · simp only [Context.setUp]
    split
    next on => exact Nat.mod_eq_of_lt (Nat.lt_succ_of_le (tags on))
    next => rfl

/-- Settles O21: the three refusals in their order; a good SETUP writes the enabled fields alone. -/
theorem setupJudged : Obligations.SetupJudged := by
  unfold Obligations.SetupJudged
  intro s h enables scale turn tag offset takes c x good
  have arrived : exec c s = .next (takeSetup h enables scale turn offset tag (setReceiver .u .idle s)) :=
    exec_arrived_u (f := .setup h enables scale turn offset tag) takes rfl rfl
  have good_iff : setupInRange enables scale turn tag = true ↔ good := setupInRange_iff ..
  have source : (setReceiver .u .idle s).sources[h.source] = s.sources[h.source] := by rw [setReceiver_sources]
  have ctx : (setReceiver .u .idle s).ctx h.carriage = x := rfl
  refine ⟨fun disabled => ?_, fun enabled absent => ?_, fun enabled present wrong => ?_, fun enabled present right => ?_⟩
  · refine refuses_of_exec (arrived.trans (congrArg Host.Outcome.next ?_))
    rw [takeSetup, source, if_pos disabled]
  · refine refuses_of_exec (arrived.trans (congrArg Host.Outcome.next ?_))
    rw [takeSetup, source, if_neg (by rw [enabled]; nofun), ctx, if_pos (Context.enrolled_eq_false.2 absent)]
  · refine refuses_of_exec (arrived.trans (congrArg Host.Outcome.next ?_))
    rw [takeSetup, source, if_neg (by rw [enabled]; nofun), ctx, if_neg (mt Context.enrolled_eq_false.1 present),
      if_pos (Bool.not_eq_true _ ▸ mt good_iff.1 wrong)]
  · obtain ⟨turns, tags⟩ := x.setUp_fields offset (good_iff.2 right)
    refine ⟨x.setUp enables scale turn offset tag, arrived.trans (congrArg Host.Outcome.next ?_), rfl, rfl, turns, rfl, tags⟩
    rw [takeSetup, source, if_neg (by rw [enabled]; nofun), ctx, if_neg (mt Context.enrolled_eq_false.1 present),
      if_neg (by rw [good_iff.2 right]; nofun)]
    rfl

/-! ### ENROLL and WITHDRAW_CARRIAGE -/

theorem hasRoom_iff (s : State) (z : Zone) :
    s.hasRoom z = true ↔ (s.placeAt z).capacity = 0 ∨ s.claimCount z < (s.placeAt z).capacity := by
  rw [State.hasRoom, Bool.or_eq_true, decide_eq_true_iff, decide_eq_true_iff]

theorem freelyEntered_iff (s : State) (z : Zone) : s.freelyEntered z = true ↔
    ((s.placeAt z).capacity = 0 ∨ s.claimCount z < (s.placeAt z).capacity) ∧ s.waitList z = [] := by
  rw [State.freelyEntered, Bool.and_eq_true, hasRoom_iff, List.isEmpty_iff]

/-- ENROLL of a carriage that its operand names (R58). -/
theorem reqEnroll_named {ops : List Byte} {c : Carriage} (names : (byteAt ops 0).toNat = c.val) (s : State) : reqEnroll ops s =
    if (s.ctx c).enrolled then .refuse .state s
    else if s.table.floorValid = false then .refuse .state s
    else if s.table.onFloor (pointAt ops 1) = false then .refuse .badValue s
    else if 127 < (byteAt ops 7).toNat then .refuse .badValue s
    else if s.freelyEntered (s.lookup (pointAt ops 1)) = false then .refuse .noRoom s
    else .ok (grantClaim (s.lookup (pointAt ops 1))
      (setCtx c (.enrolledAt (pointAt ops 1) (s.lookup (pointAt ops 1)) (byteAt ops 7) (byteAt ops 8).toNat) s)) := by
  rw [reqEnroll, carriageOf_eq_some names]

theorem reqWithdraw_named {ops : List Byte} {c : Carriage} (names : (byteAt ops 0).toNat = c.val) (s : State) : reqWithdraw ops s =
    if (s.ctx c).state = .parked && !(s.ctx c).verdictOwed then .ok (setCtx c .unenrolled (releaseClaim (s.ctx c).zone s))
    else .refuse .busy s := by
  rw [reqWithdraw, carriageOf_eq_some names]

/-- Settles O25: the refusals of ENROLL and WITHDRAW_CARRIAGE in their order, and what each that is taken writes. -/
theorem enrollAndWithdrawJudged : Obligations.EnrollAndWithdrawJudged := by
  unfold Obligations.EnrollAndWithdrawJudged
  refine ⟨fun s h rid ops takes manages length => ?_, fun s h rid ops takes manages length => ?_⟩
  · intro c coord p z room
    have room_iff : (setReceiver .u .idle s).freelyEntered z = true ↔ room := freelyEntered_iff s z
    refine ⟨fun beyond => ?_, fun k names => ?_⟩
    · refine answers_of_refused (r := .enroll) takes manages length nofun ?_
      rw [Request.run, reqEnroll, carriageOf_eq_none beyond]
    have judged := reqEnroll_named names (setReceiver .u .idle s)
    refine ⟨fun unready => ?_, fun absent valid => ⟨fun wrong => ?_, fun floor tag => ⟨fun full => ?_, fun free => ?_⟩⟩⟩
    · refine answers_of_refused (r := .enroll) takes manages length nofun (judged.trans ?_)
      by_cases present : (s.ctx k).state = .unenrolled
      · have invalid : (setReceiver .u .idle s).table.floorValid = false := unready.resolve_left (not_not.2 present)
        have first : ¬((setReceiver .u .idle s).ctx k).enrolled = true := mt (Context.enrolled_iff _).1 (not_not.2 present)
        rw [if_neg first, if_pos invalid]
      · exact if_pos ((Context.enrolled_iff _).2 present)
    all_goals
      have first : ¬((setReceiver .u .idle s).ctx k).enrolled = true := mt (Context.enrolled_iff _).1 (not_not.2 absent)
      have second : ¬(setReceiver .u .idle s).table.floorValid = false := by
        show ¬s.table.floorValid = false
        rw [valid]; nofun
    · refine answers_of_refused (r := .enroll) takes manages length nofun (judged.trans ?_)
      rw [if_neg first, if_neg second]
      by_cases off : s.table.onFloor p = false
      · exact if_pos off
      · rw [if_neg (show ¬(setReceiver .u .idle s).table.onFloor (pointAt ops 1) = false from off),
          if_pos (wrong.resolve_left off)]
    all_goals
      have third : ¬(setReceiver .u .idle s).table.onFloor (pointAt ops 1) = false := by
        show ¬s.table.onFloor p = false
        rw [floor]; nofun
    · refine answers_of_refused (r := .enroll) takes manages length nofun (judged.trans ?_)
      rw [if_neg first, if_neg second, if_neg third, if_neg (Nat.not_lt.2 tag)]
      exact if_pos (Bool.not_eq_true _ ▸ mt room_iff.1 full)
    · refine answersOk_of_ok (r := .enroll) takes manages length nofun (judged.trans ?_)
      rw [if_neg first, if_neg second, if_neg third, if_neg (Nat.not_lt.2 tag)]
      exact if_neg (Bool.not_eq_false _ ▸ room_iff.2 free)
  · intro c
    refine ⟨fun beyond => ?_, fun k names => ⟨fun stays => ?_, fun parked settled => ?_⟩⟩
    · refine answers_of_refused (r := .withdrawCarriage) takes manages length nofun ?_
      rw [Request.run, reqWithdraw, carriageOf_eq_none beyond]
    · refine answers_of_refused (r := .withdrawCarriage) takes manages length nofun
        ((reqWithdraw_named names (setReceiver .u .idle s)).trans (if_neg ?_))
      show ¬(decide ((s.ctx k).state = .parked) && !(s.ctx k).verdictOwed) = true
      rcases stays with other | owed
      · simp [other]
      · simp [owed]
    · refine answersOk_of_ok (r := .withdrawCarriage) takes manages length nofun
        ((reqWithdraw_named names (setReceiver .u .idle s)).trans (if_pos ?_))
      show (decide ((s.ctx k).state = .parked) && !(s.ctx k).verdictOwed) = true
      simp [parked, settled]

/-! ### RELEASE_CARRIAGE -/

theorem reqRelease_named {ops : List Byte} {c : Carriage} (names : (byteAt ops 0).toNat = c.val) (s : State) : reqRelease ops s =
    if (s.ctx c).state ≠ .faulted then .refuse .state s
    else if s.table.onFloor (pointAt ops 1) = false then .refuse .badValue s
    else if !((s.ctx c).claimedZones.contains (s.lookup (pointAt ops 1)) || s.freelyEntered (s.lookup (pointAt ops 1))) then
      .refuse .noRoom s
    else .ok ((s.ctx c).claimedZones.foldl (fun s z => offer z s)
      (setCtx c ((s.ctx c).releasedAt (pointAt ops 1) (s.lookup (pointAt ops 1)))
        (grantClaim (s.lookup (pointAt ops 1)) ((s.ctx c).claimedZones.foldl (fun s z => dropClaim z s) s)))) := by
  rw [reqRelease, carriageOf_eq_some names]

/-- The zones a carriage claims are its current zone and the target of its entry move (R104). -/
theorem Context.mem_claimedZones (x : Context) (z : Zone) :
    z ∈ x.claimedZones ↔ z = x.zone ∨ ∃ r ∈ x.inFlight, r.entry = true ∧ r.targetZone = z := by
  unfold Context.claimedZones
  cases x.inFlight with
  | none => simp
  | some r =>
    cases entry : r.entry with
    | false => simp [entry]
    | true =>
      have target : (∃ r' ∈ some r, r'.entry = true ∧ r'.targetZone = z) ↔ z = r.targetZone :=
        ⟨fun ⟨_, same, _, eq⟩ => Option.some.inj same ▸ eq.symm, fun eq => ⟨r, rfl, entry, eq.symm⟩⟩
      dsimp only
      rw [if_pos entry, target]
      split
      · rw [List.mem_pair, or_comm]
      · exact List.mem_pair

/-- The order in which they are released: increasing index order (R61). -/
theorem Context.claimedZones_eq {x : Context} {r : InFlight} (flight : x.inFlight = some r) (entry : r.entry = true) :
    x.claimedZones = if r.targetZone < x.zone then [r.targetZone, x.zone] else [x.zone, r.targetZone] := by
  rw [Context.claimedZones, flight]
  exact if_pos entry

theorem Context.claimedZones_of_stay {x : Context} (stay : ∀ r ∈ x.inFlight, r.entry = false) : x.claimedZones = [x.zone] := by
  unfold Context.claimedZones
  split
  next r flight => exact if_neg (by rw [stay r flight]; nofun)
  next => rfl

/-- Settles O26: the refusals of RELEASE_CARRIAGE in their order; one that is taken goes through the claimed zones in index
order twice, to drop and to offer. -/
theorem releaseJudged : Obligations.ReleaseJudged := by
  unfold Obligations.ReleaseJudged
  intro s h rid ops takes manages length c coord p z
  refine ⟨fun beyond => ?_, fun k names => ?_⟩
  · refine answers_of_refused (r := .releaseCarriage) takes manages length nofun ?_
    rw [Request.run, reqRelease, carriageOf_eq_none beyond]
  intro x mine room
  have judged := reqRelease_named names (setReceiver .u .idle s)
  have free_iff : (x.claimedZones.contains z || (setReceiver .u .idle s).freelyEntered z) = true ↔ mine ∨ room := by
    rw [Bool.or_eq_true, List.contains_iff_mem, Context.mem_claimedZones]
    exact or_congr Iff.rfl (freelyEntered_iff s z)
  refine ⟨fun sound => ?_, fun faulted off => ?_, fun faulted floor apart full => ?_, fun faulted floor free => ?_⟩
  · exact answers_of_refused (r := .releaseCarriage) takes manages length nofun (judged.trans (if_pos sound))
  · refine answers_of_refused (r := .releaseCarriage) takes manages length nofun (judged.trans ?_)
    rw [if_neg (not_not.2 (show ((setReceiver .u .idle s).ctx k).state = .faulted from faulted))]
    exact if_pos off
  all_goals
    have first : ¬((setReceiver .u .idle s).ctx k).state ≠ .faulted := not_not.2 faulted
    have second : ¬(setReceiver .u .idle s).table.onFloor (pointAt ops 1) = false := by
      show ¬s.table.onFloor p = false
      rw [floor]; nofun
    rw [if_neg first, if_neg second] at judged
  · refine answers_of_refused (r := .releaseCarriage) takes manages length nofun (judged.trans (if_pos ?_))
    rw [Bool.not_eq_true', ← Bool.not_eq_true]
    exact mt free_iff.1 (not_or.2 ⟨apart, full⟩)
  · have taken := judged.trans (if_neg (by
      rw [Bool.not_eq_true', ← Bool.not_eq_true, not_not]
      exact free_iff.2 free))
    have answered := answersOk_of_ok (rid := rid) (r := .releaseCarriage) takes manages length nofun taken
    rw [show (setReceiver .u .idle s).ctx k = x from rfl] at answered
    intro y t
    refine ⟨fun r flight entry below => ?_, fun r flight entry above => ?_, fun stay => ?_⟩
    · rw [Context.claimedZones_eq flight entry, if_pos below] at answered
      exact answered
    · rw [Context.claimedZones_eq flight entry, if_neg (not_lt.2 above)] at answered
      exact answered
    · rw [Context.claimedZones_of_stay stay] at answered
      exact answered

end Sys2Proof.Machine
end

section
/-! WRITE_ZONE judged step by step (R46 to R51): its operands, its use tests, and the descriptor it writes. -/

namespace Sys2Proof.Machine

/-! ### The body of a descriptor -/

theorem policyOf_eq_some {b : Byte} (small : b.toNat ≤ 1) : policyOf b = some (if b = 0x00 then .clip else .refuse) := by
  have cases : b = 0 ∨ b = 1 := by bv_omega
  rcases cases with rfl | rfl <;> rfl

theorem policyOf_eq_none {b : Byte} (large : 1 < b.toNat) : policyOf b = none := by
  have apart : b ≠ 0 ∧ b ≠ 1 := by constructor <;> rintro rfl <;> exact absurd large (by decide)
  rw [policyOf, if_neg apart.1, if_neg apart.2]

/-- A window byte in range names its window, or none (R46). -/
theorem windowFieldOf_eq_some {b : Byte} (good : ¬(0x10 ≤ b.toNat ∧ b.toNat ≤ 0xFE)) :
    ∃ w, windowFieldOf b = some w ∧ w.map (·.val) = if b.toNat = 0xFF then none else some b.toNat := by
  by_cases none : b = 0xFF
  · exact ⟨Option.none, if_pos none, by rw [none]; rfl⟩
  · have apart : b.toNat ≠ 0xFF := fun eq => none (BitVec.eq_of_toNat_eq eq)
    have small : b.toNat < 16 := by have := b.isLt; omega
    refine ⟨some ⟨b.toNat, small⟩, ?_, by rw [if_neg apart]; rfl⟩
    rw [windowFieldOf, if_neg none, windowOf_eq_some (w := ⟨b.toNat, small⟩) rfl]
    rfl

theorem windowFieldOf_eq_none {b : Byte} (low : 0x10 ≤ b.toNat) (high : b.toNat ≤ 0xFE) : windowFieldOf b = none := by
  have apart : b ≠ 0xFF := by rintro rfl; exact absurd high (by decide)
  rw [windowFieldOf, if_neg apart, windowOf_eq_none low]
  rfl

/-- The operand tests of a place (R48). -/
def PlaceBad (ops : List Byte) : Prop :=
  (boxAt ops 2).ordered = false ∨ 3 < (byteAt ops 14).toNat ∨ 15 < (byteAt ops 15).toNat ∨ 1 < (byteAt ops 18).toNat ∨
    (0x10 ≤ (byteAt ops 20).toNat ∧ (byteAt ops 20).toNat ≤ 0xFE)

theorem placeOf_eq_none {ops : List Byte} (bad : PlaceBad ops) (guarded : Bool) : placeOf guarded ops = none := by
  unfold placeOf
  dsimp only
  split
  next level policy window =>
    rcases bad with disorder | high | many | other | ⟨low, high⟩
    · rw [if_neg (by rw [disorder]; nofun)]
    · rw [levelOf_eq_none high] at level; cases level
    · rw [if_neg (by simp [many])]
    · rw [policyOf_eq_none other] at policy; cases policy
    · rw [windowFieldOf_eq_none low high] at window; cases window
  next => rfl

/-- The place a good body describes, each field from its bytes (R46). -/
theorem placeOf_eq_some {ops : List Byte} (good : ¬PlaceBad ops) (guarded : Bool) : ∃ p, placeOf guarded ops = some p ∧
    p.guarded = guarded ∧ p.box = boxAt ops 2 ∧ p.guardLevel.val = (byteAt ops 14).toNat ∧ p.capacity = (byteAt ops 15).toNat ∧
    p.speedLimit = wordAt ops 16 ∧ p.policy = (if byteAt ops 18 = 0x00 then .clip else .refuse) ∧
    p.holdLimit = (byteAt ops 19).toNat ∧
    p.window.map (·.val) = (if (byteAt ops 20).toNat = 0xFF then none else some (byteAt ops 20).toNat) := by
  simp only [PlaceBad, not_or, Bool.not_eq_false, Nat.not_lt] at good
  obtain ⟨ordered, level, capacity, policy, window⟩ := good
  obtain ⟨w, named, field⟩ := windowFieldOf_eq_some window
  have within : ((boxAt ops 2).ordered && decide ((byteAt ops 15).toNat ≤ 15)) = true := by simp [ordered, capacity]
  unfold placeOf
  dsimp only
  rw [levelOf_eq_some (l := ⟨_, Nat.lt_succ_of_le level⟩) rfl, policyOf_eq_some policy, named]
  dsimp only
  rw [if_pos within]
  exact ⟨_, rfl, rfl, rfl, rfl, rfl, rfl, rfl, rfl, field⟩

/-- The operand tests of a portal (R48). -/
def PortalBad (ops : List Byte) : Prop := 0x40 < (byteAt ops 2).toNat ∨ 0x3F < (byteAt ops 3).toNat ∨ 3 < (byteAt ops 4).toNat

theorem portalOf_eq_none {ops : List Byte} (bad : PortalBad ops) : portalOf ops = none := by
  unfold portalOf
  split
  next origin target level =>
    rcases bad with high | high | high
    · rw [zoneOf_eq_none high] at origin; cases origin
    · rw [zoneIndexOf_eq_none high] at target; cases target
    · rw [levelOf_eq_none high] at level; cases level
  next => rfl

theorem portalOf_eq_some {ops : List Byte} (good : ¬PortalBad ops) : ∃ f t l, portalOf ops = some (.portal f t l) ∧
    f.val = (byteAt ops 2).toNat ∧ t.val = (byteAt ops 3).toNat ∧ l.val = (byteAt ops 4).toNat := by
  simp only [PortalBad, not_or, Nat.not_lt] at good
  obtain ⟨origin, target, level⟩ := good
  refine ⟨⟨_, Nat.lt_succ_of_le origin⟩, ⟨_, Nat.lt_succ_of_le target⟩, ⟨_, Nat.lt_succ_of_le level⟩, ?_, rfl, rfl, rfl⟩
  rw [portalOf, zoneOf_eq_some (z := ⟨_, Nat.lt_succ_of_le origin⟩) rfl,
    zoneIndexOf_eq_some (i := ⟨_, Nat.lt_succ_of_le target⟩) rfl, levelOf_eq_some (l := ⟨_, Nat.lt_succ_of_le level⟩) rfl]

/-- The body of a WRITE_ZONE by the number of its kind (R46). -/
theorem descriptorOf_eq (ops : List Byte) : descriptorOf ops =
    if (byteAt ops 1).toNat = 0 then some .void
    else if (byteAt ops 1).toNat = 1 then (placeOf false ops).map .place
    else if (byteAt ops 1).toNat = 2 then (placeOf true ops).map .place
    else if (byteAt ops 1).toNat = 3 then portalOf ops
    else none := by
  have names : ∀ (n : Nat) (k : Byte), k.toNat = n → (byteAt ops 1 = k ↔ (byteAt ops 1).toNat = n) := fun n k value =>
    ⟨fun eq => eq ▸ value, fun eq => BitVec.eq_of_toNat_eq (eq.trans value.symm)⟩
  simp only [descriptorOf, names 0 0x00 rfl, names 1 0x01 rfl, names 2 0x02 rfl, names 3 0x03 rfl]

/-- The operand tests of R48, by kind. -/
def DescriptorBad (ops : List Byte) : Prop :=
  3 < (byteAt ops 1).toNat ∨ (((byteAt ops 1).toNat = 1 ∨ (byteAt ops 1).toNat = 2) ∧ PlaceBad ops) ∨
    ((byteAt ops 1).toNat = 3 ∧ PortalBad ops)

theorem descriptorOf_eq_none {ops : List Byte} (bad : DescriptorBad ops) : descriptorOf ops = none := by
  rw [descriptorOf_eq]
  rcases bad with large | ⟨one | two, bad⟩ | ⟨three, bad⟩
  · rw [if_neg (by omega), if_neg (by omega), if_neg (by omega), if_neg (by omega)]
  · rw [if_neg (by omega), if_pos one, placeOf_eq_none bad]; rfl
  · rw [if_neg (by omega), if_neg (by omega), if_pos two, placeOf_eq_none bad]; rfl
  · rw [if_neg (by omega), if_neg (by omega), if_neg (by omega), if_pos three, portalOf_eq_none bad]

/-- The descriptor that good operands describe (R46). -/
theorem descriptorOf_eq_some {ops : List Byte} (good : ¬DescriptorBad ops) : ∃ d, descriptorOf ops = some d ∧
    ((byteAt ops 1).toNat = 0 → d = .void) ∧
    ((byteAt ops 1).toNat = 1 ∨ (byteAt ops 1).toNat = 2 → ∃ p, d = .place p ∧ p.guarded = decide ((byteAt ops 1).toNat = 2) ∧
      p.box = boxAt ops 2 ∧ p.guardLevel.val = (byteAt ops 14).toNat ∧ p.capacity = (byteAt ops 15).toNat ∧
      p.speedLimit = wordAt ops 16 ∧ p.policy = (if byteAt ops 18 = 0x00 then .clip else .refuse) ∧
      p.holdLimit = (byteAt ops 19).toNat ∧
      p.window.map (·.val) = (if (byteAt ops 20).toNat = 0xFF then none else some (byteAt ops 20).toNat)) ∧
    ((byteAt ops 1).toNat = 3 → ∃ f t l, d = .portal f t l ∧ f.val = (byteAt ops 2).toNat ∧ t.val = (byteAt ops 3).toNat ∧
      l.val = (byteAt ops 4).toNat) := by
  simp only [DescriptorBad, not_or, not_and, Nat.not_lt] at good
  obtain ⟨kinds, places, portals⟩ := good
  rw [descriptorOf_eq]
  by_cases zero : (byteAt ops 1).toNat = 0
  · exact ⟨.void, if_pos zero, fun _ => rfl, fun other => by omega, fun other => by omega⟩
  by_cases one : (byteAt ops 1).toNat = 1
  · obtain ⟨p, eq, guarded, fields⟩ := placeOf_eq_some (places (.inl one)) false
    refine ⟨.place p, by rw [if_neg zero, if_pos one, eq]; rfl, fun other => by omega, fun _ => ⟨p, rfl, ?_, fields⟩,
      fun other => by omega⟩
    rw [guarded, one]; rfl
  by_cases two : (byteAt ops 1).toNat = 2
  · obtain ⟨p, eq, guarded, fields⟩ := placeOf_eq_some (places (.inr two)) true
    refine ⟨.place p, by rw [if_neg zero, if_neg one, if_pos two, eq]; rfl, fun other => by omega, fun _ => ⟨p, rfl, ?_, fields⟩,
      fun other => by omega⟩
    rw [guarded, two]; rfl
  · have three : (byteAt ops 1).toNat = 3 := by omega
    obtain ⟨f, t, l, eq, fields⟩ := portalOf_eq_some (portals three)
    exact ⟨.portal f t l, by rw [if_neg zero, if_neg one, if_neg two, if_pos three, eq], fun other => by omega,
      fun other => by omega, fun _ => ⟨f, t, l, rfl, fields⟩⟩

/-! ### The use tests -/

theorem all_pool (s : State) (f : Option HoldEntry → Bool) : s.occ.pool.toList.all f = true ↔ ∀ e : Fin 16, f s.occ.pool[e] = true := by
  simp only [List.all_eq_true, Vector.mem_toList_iff]
  refine ⟨fun h e => h _ (Vector.getElem_mem _), fun h x mem => ?_⟩
  obtain ⟨i, small, eq⟩ := Vector.mem_iff_getElem.1 mem
  exact eq ▸ h ⟨i, small⟩

theorem any_pool (s : State) (f : Option HoldEntry → Bool) : s.occ.pool.toList.any f = true ↔ ∃ e : Fin 16, f s.occ.pool[e] = true := by
  rw [← not_iff_not, Bool.not_eq_true, List.any_eq_false, not_exists]
  have all := all_pool s fun x => !f x
  simp only [List.all_eq_true, Bool.not_eq_true'] at all
  simpa only [Bool.not_eq_true] using all

theorem pushNames_iff (i : ZoneIndex) (p : Option StackRecord) : pushNames i p = true ↔ ∃ q ∈ p, q.portal = i := by
  cases p with
  | none => simp [pushNames]
  | some q => simp [pushNames]

/-- A portal is named by a stack record or by a planned push, in flight or held (R49 test 2). -/
theorem portalInUse_iff (s : State) (i : ZoneIndex) : s.portalInUse i = true ↔
    (∃ k : Carriage, (∃ r ∈ (s.ctx k).stack, r.portal = i) ∨ ∃ r ∈ (s.ctx k).inFlight, ∃ q ∈ r.push, q.portal = i) ∨
      ∃ e : Fin 16, ∃ g ∈ s.occ.pool[e], ∃ q ∈ g.push, q.portal = i := by
  rw [State.portalInUse, Bool.or_eq_true, any_carriages, any_pool]
  refine or_congr (exists_congr fun k => ?_) (exists_congr fun e => ?_)
  · rw [Bool.or_eq_true]
    refine or_congr (by simp) ?_
    cases (s.ctx k).inFlight with
    | none => simp
    | some r => simp [pushNames_iff]
  · cases s.occ.pool[e] with
    | none => simp
    | some g => simp [pushNames_iff]

/-- The use tests of R49. -/
theorem descriptorInUse_iff (s : State) (i : ZoneIndex) : s.descriptorInUse i = true ↔
    0 < s.claimCount i.castSucc ∨ s.occ.waits[i] ≠ [] ∨ ((∃ f t u, s.table.descriptors[i] = .portal f t u) ∧
      ((∃ k : Carriage, (∃ r ∈ (s.ctx k).stack, r.portal = i) ∨ ∃ r ∈ (s.ctx k).inFlight, ∃ q ∈ r.push, q.portal = i) ∨
        ∃ e : Fin 16, ∃ g ∈ s.occ.pool[e], ∃ q ∈ g.push, q.portal = i)) := by
  rw [State.descriptorInUse, Bool.or_eq_true, Bool.or_eq_true, decide_eq_true_iff, Bool.not_eq_true', List.isEmpty_eq_false_iff,
    or_assoc, ← portalInUse_iff]
  refine or_congr Iff.rfl (or_congr Iff.rfl ?_)
  cases s.table.descriptors[i] with
  | portal f t u => exact ⟨fun used => ⟨⟨f, t, u, rfl⟩, used⟩, fun used => used.2⟩
  | void | place => exact ⟨nofun, fun ⟨⟨_, _, _, eq⟩, _⟩ => nomatch eq⟩

/-- The lookup tests of R50, as what fails them. -/
theorem lookupsStand_iff (s : State) (ds : Vector Descriptor 64) : s.lookupsStand ds = false ↔
    (∃ k : Carriage, (s.ctx k).state ≠ .unenrolled ∧ lookupIn ds (s.ctx k).position ≠ (s.ctx k).zone) ∨
      (∃ k : Carriage, ∃ r ∈ (s.ctx k).inFlight, lookupIn ds r.target ≠ r.targetZone) ∨
      ∃ e : Fin 16, ∃ g ∈ s.occ.pool[e], lookupIn ds g.target ≠ g.zone.castSucc := by
  rw [State.lookupsStand, ← Bool.not_eq_true, Bool.and_eq_true, all_carriages, all_pool, not_and_or, not_forall, not_forall,
    ← or_assoc, ← exists_or]
  refine or_congr (exists_congr fun k => ?_) (exists_congr fun e => ?_)
  · rw [Bool.and_eq_true, not_and_or]
    refine or_congr ?_ ?_
    · rw [Bool.or_eq_true, Bool.not_eq_true', Context.enrolled_eq_false, decide_eq_true_iff, not_or]
    · cases (s.ctx k).inFlight with
      | none => simp
      | some r => simp
  · cases s.occ.pool[e] with
    | none => simp
    | some g => simp

/-! ### WRITE_ZONE -/

theorem descriptorInUse_setReceiver (p : Port) (r : Receiver) (s : State) (i : ZoneIndex) :
    (setReceiver p r s).descriptorInUse i = s.descriptorInUse i := by cases p <;> rfl

theorem lookupsStand_setReceiver (p : Port) (r : Receiver) (s : State) (ds : Vector Descriptor 64) :
    (setReceiver p r s).lookupsStand ds = s.lookupsStand ds := by cases p <;> rfl

theorem reqWriteZone_named {s : State} {ops : List Byte} {i : ZoneIndex} (unlocked : s.gov.lock = false)
    (names : (byteAt ops 0).toNat = i.val) : reqWriteZone ops s =
    match descriptorOf ops with
    | none => .refuse .badValue s
    | some d =>
      if s.descriptorInUse i || !s.lookupsStand (s.table.descriptors.set i.val d) then .refuse .inUse s
      else .ok (withDescriptor i d s) := by
  rw [reqWriteZone, if_neg (by rw [unlocked]; nofun), zoneIndexOf_eq_some names]
  rfl

/-- Settles O23: the tests of R48 give the descriptor or the refusal; the tests of R49 and R50 give IN_USE; else the descriptor
is replaced whole. -/
theorem writeZoneJudged : Obligations.WriteZoneJudged := by
  unfold Obligations.WriteZoneJudged
  intro s h rid ops takes manages length c kind window coord b bad
  have bad_iff : DescriptorBad ops ↔ bad := by
    have disorder : (boxAt ops 2).ordered = false ↔ b.x1.toInt < b.x0.toInt ∨ b.y1.toInt < b.y0.toInt := by
      rw [← Bool.not_eq_true, Box.ordered_iff, not_and_or, not_le, not_le]; rfl
    simp only [DescriptorBad, PlaceBad, disorder, or_assoc]
    exact Iff.rfl
  have unlocked_here : s.gov.lock = false → (setReceiver .u .idle s).gov.lock = false := id
  refine ⟨fun locked => answers_locked (r := .writeZone) (by decide) locked takes manages length, fun unlocked beyond => ?_,
    fun unlocked within wrong => ?_, fun unlocked good i names => ?_⟩
  · refine answers_of_refused (r := .writeZone) takes manages length nofun ?_
    rw [Request.run, reqWriteZone, if_neg (by rw [unlocked_here unlocked]; nofun), zoneIndexOf_eq_none beyond]
  · have names : (byteAt ops 0).toNat = (⟨_, Nat.lt_succ_of_le within⟩ : ZoneIndex).val := rfl
    refine answers_of_refused (r := .writeZone) takes manages length nofun
      ((reqWriteZone_named (unlocked_here unlocked) names).trans ?_)
    rw [descriptorOf_eq_none (bad_iff.2 wrong)]
  · obtain ⟨d, described, void, place, portal⟩ := descriptorOf_eq_some (mt bad_iff.1 good)
    refine ⟨d, void, place, portal, ?_⟩
    intro proposed inUse moves
    have inUse_iff : s.descriptorInUse i = true ↔ inUse := descriptorInUse_iff s i
    have moves_iff : s.lookupsStand proposed = false ↔ moves := lookupsStand_iff s proposed
    have judged := reqWriteZone_named (unlocked_here unlocked) names
    rw [described] at judged
    have taken : (s.descriptorInUse i || !s.lookupsStand proposed) = true ↔ inUse ∨ moves := by
      rw [Bool.or_eq_true, Bool.not_eq_true', inUse_iff, moves_iff]
    refine ⟨fun used => ?_, fun unused stays => ?_⟩
    · refine answers_of_refused (r := .writeZone) takes manages length nofun (judged.trans (if_pos ?_))
      rw [descriptorInUse_setReceiver, lookupsStand_setReceiver, setReceiver_table]
      exact taken.2 used
    · refine answersOk_of_ok (r := .writeZone) takes manages length nofun (judged.trans (if_neg ?_))
      rw [descriptorInUse_setReceiver, lookupsStand_setReceiver, setReceiver_table]
      exact mt taken.1 (not_or.2 ⟨unused, stays⟩)

end Sys2Proof.Machine
end

section
/-! Levels, speeds and clearance (steps 10 and 11 of the admission check), and the drive reports: DONE, CONTACT and
STOP_CARRIAGE. -/

namespace Sys2Proof.Machine

/-! ### Level and speed -/

theorem effectiveLevel_val (s : State) (h : Header) : (s.effectiveLevel h).val = max h.level.val (s.sources[h.source].ceiling).val := by
  unfold State.effectiveLevel
  split
  next below => exact (Nat.max_eq_right (Nat.le_of_lt below)).symm
  next above => exact (Nat.max_eq_left (not_lt.1 above)).symm

theorem bindingPlace_eq (origin target : Place) : bindingPlace origin target =
    if origin.speedLimit = 0 ∧ target.speedLimit = 0 then none
    else if origin.speedLimit ≠ 0 ∧ (target.speedLimit = 0 ∨ origin.speedLimit.toNat < target.speedLimit.toNat) then some origin
    else some target := by
  unfold bindingPlace
  by_cases noOrigin : origin.speedLimit = 0
  · have unlimited : ¬(origin.speedLimit ≠ 0 ∧
        (target.speedLimit = 0 ∨ origin.speedLimit.toNat < target.speedLimit.toNat)) := fun limited => limited.1 noOrigin
    rw [if_pos noOrigin, if_neg unlimited]
    exact if_congr ⟨fun noTarget => ⟨noOrigin, noTarget⟩, fun none => none.2⟩ rfl rfl
  · have limited : ¬(origin.speedLimit = 0 ∧ target.speedLimit = 0) := fun none => noOrigin none.1
    rw [if_neg noOrigin, if_neg limited]
    by_cases noTarget : target.speedLimit = 0
    · rw [if_pos noTarget, if_pos ⟨noOrigin, .inl noTarget⟩]
    · rw [if_neg noTarget]
      exact if_congr ⟨fun below => ⟨noOrigin, .inr below⟩, fun bounded => bounded.2.resolve_left noTarget⟩ rfl rfl

/-- The bound a binding place sets (R95). -/
theorem judgeSpeed_of_bound {origin target b : Place} (binds : bindingPlace origin target = some b) (speed : Speed) :
    (speed.toNat ≤ b.speedLimit.toNat → judgeSpeed origin target speed = .ok (speed, false)) ∧
    (b.speedLimit.toNat < speed.toNat → b.policy = .refuse → judgeSpeed origin target speed = .error b.speedLimit) ∧
    (b.speedLimit.toNat < speed.toNat → b.policy = .clip → judgeSpeed origin target speed = .ok (b.speedLimit, true)) := by
  unfold judgeSpeed
  rw [binds]
  refine ⟨fun within => if_neg (Nat.not_lt.2 within), fun above refuses => ?_, fun above clips => ?_⟩
  · dsimp only
    rw [if_pos above, refuses]
  · dsimp only
    rw [if_pos above, clips]

theorem judgeSpeed_of_unbound {origin target : Place} (free : bindingPlace origin target = none) (speed : Speed) :
    judgeSpeed origin target speed = .ok (speed, false) := by
  rw [judgeSpeed, free]

theorem placeAt_castSucc {s : State} {i : ZoneIndex} {p : Place} (place : s.table.descriptors[i] = .place p) :
    s.placeAt i.castSucc = p := by
  have descriptor : s.descriptor i.castSucc = s.table.descriptors[i] := dif_pos i.isLt
  rw [State.placeAt, descriptor, place]

theorem placeAt_floor (s : State) : s.placeAt 64 = floorPlace := rfl

/-- Settles O28: the ceiling raises a level below it; the binding place decides a speed. -/
theorem levelAndSpeedJudged : Obligations.LevelAndSpeedJudged := by
  unfold Obligations.LevelAndSpeedJudged
  refine ⟨fun s h => ⟨effectiveLevel_val s h, decide_eq_true_iff⟩, fun origin target speed => ?_, fun s i p => placeAt_castSucc,
    fun s => ⟨rfl, rfl, rfl, rfl, rfl, rfl, rfl⟩⟩
  intro decided
  have binding := bindingPlace_eq origin target
  refine ⟨fun noOrigin noTarget => judgeSpeed_of_unbound (binding.trans (if_pos ⟨noOrigin, noTarget⟩)) speed,
    fun origins smaller => judgeSpeed_of_bound (binding.trans ?_) speed,
    fun targets smaller => judgeSpeed_of_bound (binding.trans ?_) speed⟩
  · rw [if_neg fun none => origins none.1, if_pos ⟨origins, smaller⟩]
  · rw [if_neg fun none => targets none.2, if_neg]
    rintro ⟨origins, none | below⟩
    · exact targets none
    · rcases smaller with none | above
      · exact origins none
      · omega

/-! ### Clearance -/

/-- Unwinding pops the top records that the guard level reaches, and leaves the last one's saved clearance (R90). -/
theorem unwind_eq (g c : Level) (stack : List StackRecord) : unwind g c stack =
    ((stack.takeWhile fun r => decide (r.saved ≤ g)).length,
      (((stack.takeWhile fun r => decide (r.saved ≤ g)).getLast?).map (·.saved)).getD c) := by
  induction stack generalizing c with
  | nil => rfl
  | cons r rest ih =>
    unfold unwind
    by_cases reached : r.saved ≤ g
    · rw [if_pos reached, ih, List.takeWhile_cons_of_pos (by simpa using reached)]
      cases popped : rest.takeWhile fun r => decide (r.saved ≤ g) with
      | nil => rfl
      | cons a l => simp [List.getLast?_cons]
    · rw [if_neg reached, List.takeWhile_cons_of_neg (by simpa using reached)]
      rfl

/-- Step 10 in its order, with the pops and the prospective clearance of the unwinding (R90 to R94). -/
theorem judgeClearance_eq (s : State) (x : Context) (level : Level) (via : Byte) (z : Zone) : judgeClearance s x level via z =
    if (s.placeAt z).guardLevel < level then .error .level
    else
      match zoneIndexOf via with
      | none =>
        if (s.placeAt z).guarded && (unwind (s.placeAt z).guardLevel x.clearance x.stack).2 ≠ (s.placeAt z).guardLevel then
          .error .level
        else .ok { pops := (unwind (s.placeAt z).guardLevel x.clearance x.stack).1, push := none }
      | some portal =>
        match judgePortal s.table.descriptors[portal] level x.zone z with
        | some r => .error r
        | none =>
          if (s.placeAt z).guardLevel < (unwind (s.placeAt z).guardLevel x.clearance x.stack).2 then
            if 4 ≤ x.stack.length - (unwind (s.placeAt z).guardLevel x.clearance x.stack).1 then .error .depth
            else .ok { pops := (unwind (s.placeAt z).guardLevel x.clearance x.stack).1,
                       push := some { saved := (unwind (s.placeAt z).guardLevel x.clearance x.stack).2, portal } }
          else if (s.placeAt z).guarded && (unwind (s.placeAt z).guardLevel x.clearance x.stack).2 ≠ (s.placeAt z).guardLevel then
            .error .level
          else .ok { pops := (unwind (s.placeAt z).guardLevel x.clearance x.stack).1, push := none } := by
  unfold judgeClearance
  rfl

theorem judgePortal_other {d : Descriptor} (other : ∀ f t l, d ≠ .portal f t l) (level : Level) (x z : Zone) :
    judgePortal d level x z = some .portal := by
  cases d with
  | portal f t l => exact absurd rfl (other f t l)
  | void | place => rfl

/-- Settles O32: the order of step 10 is that of its definition, branch by branch. -/
theorem clearanceJudged : Obligations.ClearanceJudged := by
  unfold Obligations.ClearanceJudged
  refine ⟨unwind_eq, fun s x level via z => ?_⟩
  intro g u guardedFails
  have judged := judgeClearance_eq s x level via z
  have guarded_iff : ((s.placeAt z).guarded && decide (u.2 ≠ g)) = true ↔ guardedFails := by
    rw [Bool.and_eq_true, decide_eq_true_iff]
  refine ⟨fun above => judged.trans (if_pos above), fun within high => ?_, fun within i names => ?_⟩
  · rw [if_neg (not_lt.2 within), zoneIndexOf_eq_none high] at judged
    exact ⟨fun fails => judged.trans (if_pos (guarded_iff.2 fails)), fun passes => judged.trans (if_neg (mt guarded_iff.1 passes))⟩
  · rw [if_neg (not_lt.2 within), zoneIndexOf_eq_some names] at judged
    dsimp only at judged
    refine ⟨fun other => ?_, fun f t l portal => ?_⟩
    · rw [judgePortal_other other] at judged
      exact judged
    · rw [portal] at judged
      refine ⟨fun below => ?_, fun reached apart => ?_, fun reached origin target => ?_⟩
      · have judgedPortal : judgePortal (.portal f t l) level x.zone z = some .level := if_pos below
        rw [judgedPortal] at judged
        exact judged
      · have judgedPortal : judgePortal (.portal f t l) level x.zone z = some .portal := by
          rw [judgePortal, if_neg (not_lt.2 reached)]
          by_cases origin : f = x.zone
          · rw [if_neg (not_not.2 origin), if_pos (apart.resolve_left (not_not.2 origin))]
          · rw [if_pos origin]
        rw [judgedPortal] at judged
        exact judged
      · have judgedPortal : judgePortal (.portal f t l) level x.zone z = none := by
          rw [judgePortal, if_neg (not_lt.2 reached), if_neg (not_not.2 origin), if_neg (not_not.2 target)]
        rw [judgedPortal] at judged
        refine ⟨fun pushes deep => ?_, fun pushes shallow => ?_, fun stays fails => ?_, fun stays passes => ?_⟩
        · exact judged.trans ((if_pos pushes).trans (if_pos deep))
        · exact judged.trans ((if_pos pushes).trans (if_neg (Nat.not_le.2 shallow)))
        · exact judged.trans ((if_neg (not_lt.2 stays)).trans (if_pos (guarded_iff.2 fails)))
        · exact judged.trans ((if_neg (not_lt.2 stays)).trans (if_neg (mt guarded_iff.1 passes)))

/-! ### DONE -/

theorem tagByte_of_keepsTag {c : Carriage} {s t : State} (kept : KeepsTag c s t) (present : (s.ctx c).state ≠ .unenrolled) :
    t.tagByte c = (s.ctx c).tag.setWidth 8 := by
  rw [State.tagByte, if_pos ((Context.enrolled_iff _).2 (kept.2 present)), kept.1]

theorem tagByte_of_sameTag {c : Carriage} {s t : State} (same : SameTag c s t) :
    t.tagByte c = if (s.ctx c).state = .unenrolled then 0xFF else (s.ctx c).tag.setWidth 8 := by
  unfold State.tagByte
  by_cases absent : (s.ctx c).state = .unenrolled
  · rw [if_neg (mt (Context.enrolled_iff _).1 (not_not.2 (same.2.2 absent))), if_pos absent]
  · rw [if_pos ((Context.enrolled_iff _).2 (mt same.2.1 absent)), if_neg absent, same.1]

/-- A DONE is taken, then reported with the tag and the zone that stand (R20). -/
theorem takeDone_eq {h : Header} {p : Point} {stopped tag : Byte} {s u : State} (taken : carriageDone h p s = u)
    (tagged : u.tagByte h.carriage = tag) (table : u.table = s.table) :
    takeDone h p stopped s = pushUq (.doneUp h p stopped tag (byteOf (s.lookup p).val)) u := by
  rw [takeDone, taken, tagged, State.zoneByte, lookup_congr_table table]

/-- The record a DONE matches, if there is one (R70). -/
theorem carriageDone_of_matching {h : Header} {r : InFlight} {s : State} (p : Point) (moving : (s.ctx h.carriage).state = .moving)
    (record : (s.ctx h.carriage).inFlight = some r) (source : r.source = h.source) (sequence : r.sequence = h.sequence)
    (sent : r.sent = true) : carriageDone h p s = resolveDone h.carriage r p s := by
  rw [carriageDone, movingRecord_of_moving moving record source sequence, Option.filter_some, if_pos sent]

theorem carriageDone_of_unmatched {h : Header} {s : State} (p : Point)
    (unmatched : ¬((s.ctx h.carriage).state = .moving ∧ ∃ r ∈ (s.ctx h.carriage).inFlight,
      (r.source = h.source ∧ r.sequence = h.sequence) ∧ r.sent = true)) :
    carriageDone h p s = if (s.ctx h.carriage).lateDone h.source h.sequence then
      modifyCtx h.carriage (fun x => { x with reported := some p }) s else s := by
  have none : ((s.ctx h.carriage).movingRecord h.source h.sequence).filter (·.sent) = none := by
    refine Option.eq_none_iff_forall_ne_some.2 fun r found => ?_
    obtain ⟨record, sent⟩ := Option.filter_eq_some_iff.1 found
    obtain ⟨moving, flight, source, sequence⟩ := Context.movingRecord_eq_some record
    exact unmatched ⟨moving, r, flight, ⟨source, sequence⟩, sent⟩
  rw [carriageDone, none]

theorem lateDone_iff (x : Context) (source : Source) (sequence : Byte) : x.lateDone source sequence = true ↔
    x.state = .faulted ∧ x.faultCause = some .timeout ∧ ∃ r ∈ x.inFlight, r.source = source ∧ r.sequence = sequence := by
  rw [Context.lateDone, Bool.and_eq_true, Bool.and_eq_true, decide_eq_true_iff, decide_eq_true_iff, and_assoc]
  refine and_congr Iff.rfl (and_congr Iff.rfl ?_)
  cases x.inFlight with
  | none => simp
  | some r => simp

theorem takeCause_halts {k : Cause} {s : State} (governing : s.gov.state = .governing) (enabled : s.gov.haltEnables.getLsbD k.bit = true) :
    takeCause k s = haltEntry (raise k.flag s) := by
  unfold takeCause
  dsimp only
  rw [governing, enabled]
  exact if_pos rfl

theorem takeCause_raises {k : Cause} {s : State} (off : s.gov.state ≠ .governing ∨ s.gov.haltEnables.getLsbD k.bit = false) :
    takeCause k s = raise k.flag s := by
  unfold takeCause
  dsimp only
  refine if_neg ?_
  rw [Bool.and_eq_true, decide_eq_true_iff]
  rintro ⟨governing, enabled⟩
  rcases off with other | disabled
  · exact other governing
  · rw [disabled] at enabled; cases enabled

theorem table_takeCause (k : Cause) (s : State) : (takeCause k s).table = s.table := by
  rcases takeCause_cases k s with eq | ⟨-, eq⟩ <;> rw [eq]
  · rfl
  · exact (calm_haltEntry (raise k.flag s)).table

/-! The four resolutions of R70 -/

theorem resolution_commit {s : State} {x : Context} {r : InFlight} {p : Point} (floor : s.table.onFloor p = true)
    (entry : r.entry = true) (there : s.lookup p = r.targetZone) : resolution s x r p = .commit := by
  simp [resolution, floor, entry, there]

theorem resolution_undo {s : State} {x : Context} {r : InFlight} {p : Point} (floor : s.table.onFloor p = true)
    (entry : r.entry = true) (elsewhere : s.lookup p ≠ r.targetZone) (back : s.lookup p = r.originZone) :
    resolution s x r p = .undo := by
  rw [back] at elsewhere
  simp [resolution, floor, entry, elsewhere, back]

theorem resolution_stay {s : State} {x : Context} {r : InFlight} {p : Point} (floor : s.table.onFloor p = true)
    (stays : r.entry = false) (here : s.lookup p = x.zone) : resolution s x r p = .stay := by
  simp [resolution, floor, stays, here]

theorem resolution_stray {s : State} {x : Context} {r : InFlight} {p : Point}
    (lost : s.table.onFloor p = false ∨ r.entry = true ∧ s.lookup p ≠ r.targetZone ∧ s.lookup p ≠ r.originZone ∨
      r.entry = false ∧ s.lookup p ≠ x.zone) : resolution s x r p = .stray := by
  rcases lost with off | ⟨entry, target, origin⟩ | ⟨stays, here⟩
  · simp [resolution, off]
  · simp [resolution, entry, target, origin]
  · simp [resolution, stays, here]

theorem resolveDone_commit {s : State} {c : Carriage} {r : InFlight} {p : Point}
    (resolved : resolution s (s.ctx c) r p = .commit) : resolveDone c r p s =
      releaseClaim r.originZone (setCtx c ((s.ctx c).committed r p (s.placeAt r.targetZone).guardLevel) s) := by
  rw [resolveDone, resolved]

theorem resolveDone_undo {s : State} {c : Carriage} {r : InFlight} {p : Point}
    (resolved : resolution s (s.ctx c) r p = .undo) :
    resolveDone c r p s = releaseClaim r.targetZone (setCtx c ((s.ctx c).restedAt p) s) := by
  rw [resolveDone, resolved]

theorem resolveDone_stay {s : State} {c : Carriage} {r : InFlight} {p : Point}
    (resolved : resolution s (s.ctx c) r p = .stay) : resolveDone c r p s = setCtx c ((s.ctx c).restedAt p) s := by
  rw [resolveDone, resolved]

theorem resolveDone_stray {s : State} {c : Carriage} {r : InFlight} {p : Point}
    (resolved : resolution s (s.ctx c) r p = .stray) :
    resolveDone c r p s = takeCause .stray (setCtx c ((s.ctx c).strayed r p) s) := by
  rw [resolveDone, resolved]

/-- What a commit writes (R71). -/
theorem Context.committed_eq (x : Context) (r : InFlight) (p : Point) (g : Level) : x.committed r p g =
    { x with
      position := p, zone := r.targetZone, inFlight := none, state := .parked
      stack := (applyPlan r.pops r.push g x.stack x.clearance).1
      clearance := (applyPlan r.pops r.push g x.stack x.clearance).2 } := rfl

/-- A context written with its tag kept and its carriage enrolled keeps the tag. -/
theorem keepsTag_setCtx {c : Carriage} {y : Context} {s : State} (tag : y.tag = (s.ctx c).tag) (present : y.state ≠ .unenrolled) :
    KeepsTag c s (setCtx c y s) := by
  rw [KeepsTag, ctx_setCtx, if_pos rfl]
  exact ⟨tag, fun _ => present⟩

theorem table_releaseClaim (z : Zone) (s : State) : (releaseClaim z s).table = s.table := (internals_releaseClaim z s).traffic.table

/-- The DONE_UP of a DONE that a MOVING carriage's record matches (R20, R70). -/
theorem exec_done_matching {s : State} {h : Header} {p : Point} {stopped : Byte} {r : InFlight} {u : State} (takes : s.TakesD)
    (moving : (s.ctx h.carriage).state = .moving) (record : (s.ctx h.carriage).inFlight = some r) (source : r.source = h.source)
    (sequence : r.sequence = h.sequence) (sent : r.sent = true)
    (resolved : resolveDone h.carriage r p (setReceiver .d .idle s) = u)
    (kept : KeepsTag h.carriage (setReceiver .d .idle s) u) (table : u.table = s.table) :
    exec (.done h p stopped) s =
      .next (pushUq (.doneUp h p stopped ((s.ctx h.carriage).tag.setWidth 8) (byteOf (s.lookup p).val)) u) := by
  have taken : carriageDone h p (setReceiver .d .idle s) = u :=
    (carriageDone_of_matching (s := setReceiver .d .idle s) p moving record source sequence sent).trans resolved
  have tagged := tagByte_of_keepsTag kept (show (s.ctx h.carriage).state ≠ .unenrolled by rw [moving]; nofun)
  exact (exec_arrived_d (f := .done h p stopped) takes rfl rfl).trans
    (congrArg Host.Outcome.next (takeDone_eq (stopped := stopped) taken tagged table))

/-- Settles O27: the four resolutions of a matching DONE; a DONE that matches nothing is reported, and reaches a context only as
the late report of a TIMEOUT fault. -/
theorem doneTaken : Obligations.DoneTaken := by
  unfold Obligations.DoneTaken
  refine ⟨fun s h p stopped r takes => ?_, ⟨fun c g stack => rfl, fun n c g r stack => rfl, fun n c g stack q => rfl⟩,
    fun s h p stopped takes => ?_⟩
  · intro c x t up rested after moving record source sequence sent
    have found : t.lookup p = s.lookup p := lookup_congr_table rfl p
    have done := fun u => exec_done_matching (p := p) (stopped := stopped) (u := u) takes moving record source sequence sent
    refine ⟨fun floor entry there => ?_, fun floor entry elsewhere back => ?_, fun floor stays there => ?_, fun lost => ?_⟩
    · have committed := done _ (resolveDone_commit (s := t) (resolution_commit (s := t) floor entry (found.trans there)))
        ((keepsTag_setCtx (y := (t.ctx c).committed r p (t.placeAt r.targetZone).guardLevel) rfl nofun).trans
          (keepsTag_releaseClaim _ _ _)) (table_releaseClaim _ _)
      rw [Context.committed_eq] at committed
      exact committed
    · exact done _ (resolveDone_undo (s := t) (resolution_undo (s := t) floor entry (found ▸ elsewhere) (found.trans back)))
        ((keepsTag_setCtx (y := (t.ctx c).restedAt p) rfl nofun).trans (keepsTag_releaseClaim _ _ _)) (table_releaseClaim _ _)
    · exact done _ (resolveDone_stay (s := t) (resolution_stay (s := t) floor stays (found.trans there)))
        (keepsTag_setCtx (y := (t.ctx c).restedAt p) rfl nofun) rfl
    · intro strayed
      have resolved : resolveDone c r p t = takeCause .stray (setCtx c (x.strayed r p) t) :=
        resolveDone_stray (s := t) (resolution_stray (s := t) (found ▸ lost))
      have marked : KeepsTag c t (setCtx c (x.strayed r p) t) := keepsTag_setCtx rfl nofun
      refine ⟨fun governing enabled => ?_, fun off => ?_⟩
      · have halts := takeCause_halts (k := .stray) (s := setCtx c (x.strayed r p) t) governing enabled
        have same := sameTag_haltEntry c strayed
        exact done _ (resolved.trans halts) (marked.trans ⟨same.1, mt same.2.1⟩) (calm_haltEntry strayed).table
      · exact done _ (resolved.trans (takeCause_raises (k := .stray) (s := setCtx c (x.strayed r p) t) off))
          (marked.trans (.of_ctx rfl)) rfl
  · intro c x t mine up matching late
    have late_iff : (t.ctx c).lateDone h.source h.sequence = true ↔ late := lateDone_iff x h.source h.sequence
    have arrived := exec_arrived_d (f := .done h p stopped) takes rfl rfl
    have unmatched_done := fun unmatched : ¬matching => carriageDone_of_unmatched (h := h) (s := t) p unmatched
    refine ⟨fun lateDone => ?_, fun unmatched other => ?_⟩
    · have unmatched : ¬matching := fun m => by
        have moving : x.state = .moving := m.1
        rw [lateDone.1] at moving; cases moving
      have faulted : x.state = .faulted := lateDone.1
      have taken : carriageDone h p t = setCtx c { x with reported := some p } t :=
        (unmatched_done unmatched).trans (if_pos (late_iff.2 lateDone))
      have same : SameTag c t (setCtx c { x with reported := some p } t) := by
        rw [SameTag, ctx_setCtx, if_pos rfl]
        exact ⟨rfl, Iff.rfl⟩
      exact arrived.trans (congrArg Host.Outcome.next (takeDone_eq (stopped := stopped) taken (tagByte_of_sameTag same) rfl))
    · have taken : carriageDone h p t = t := (unmatched_done unmatched).trans (if_neg (mt late_iff.1 other))
      exact arrived.trans
        (congrArg Host.Outcome.next (takeDone_eq (stopped := stopped) taken (tagByte_of_sameTag (.refl c t)) rfl))

/-! ### STOP_CARRIAGE and CONTACT -/

/-- A STOP_CARRIAGE that is taken withdraws a held move and sends its DRIVE_STOP (R101). -/
theorem exec_stopCarriage_taken {s : State} {h : Header} (takes : s.TakesU) (enabled : s.sources[h.source].enabled = true)
    (present : (s.ctx h.carriage).state ≠ .unenrolled) : exec (.stopCarriage h) s =
      .next (pushDq (.driveStop { h with level := s.effectiveLevel h }) (stopWithdrawal h.carriage (setReceiver .u .idle s))) := by
  have source : (setReceiver .u .idle s).sources[h.source] = s.sources[h.source] := by rw [setReceiver_sources]
  have absent : ¬((setReceiver .u .idle s).ctx h.carriage).enrolled = false := mt Context.enrolled_eq_false.1 present
  refine (exec_arrived_u (f := .stopCarriage h) takes rfl rfl).trans (congrArg Host.Outcome.next ?_)
  show takeStopCarriage h (setReceiver .u .idle s) = _
  rw [takeStopCarriage, source, if_neg (by rw [enabled]; nofun), if_neg absent]
  rfl

/-- The CONTACT_UP of a CONTACT, behind what governor control makes of it (R21, R75). -/
theorem exec_contact {s : State} {h : Header} {p : Point} {u : State} (takes : s.TakesD)
    (taken : takeCause .contact (setReceiver .d .idle s) = u) : exec (.contact h p) s =
      .next (pushUq (.contactUp h p (if (s.ctx h.carriage).state = .unenrolled then 0xFF else (s.ctx h.carriage).tag.setWidth 8)
        (byteOf (s.lookup p).val)) u) := by
  have same : SameTag h.carriage (setReceiver .d .idle s) u := taken ▸ sameTag_takeCause h.carriage .contact _
  have table : u.table = s.table := taken ▸ table_takeCause .contact _
  refine (exec_arrived_d (f := .contact h p) takes rfl rfl).trans (congrArg Host.Outcome.next ?_)
  show takeContact h p (setReceiver .d .idle s) = _
  rw [takeContact, taken, tagByte_of_sameTag same, State.zoneByte, lookup_congr_table table]
  rfl

/-- Settles O35: STOP_CARRIAGE acts in every state of an enrolled carriage; CONTACT goes through governor control. -/
theorem stopCarriageAndContactTaken : Obligations.StopCarriageAndContactTaken := by
  unfold Obligations.StopCarriageAndContactTaken
  refine ⟨fun s h takes => ?_, fun s h p takes => ?_⟩
  · intro x t stop
    have arrived := exec_arrived_u (f := .stopCarriage h) takes rfl rfl
    have source : t.sources[h.source] = s.sources[h.source] := by rw [setReceiver_sources]
    refine ⟨fun disabled => ?_, fun enabled absent => ?_, fun enabled state => ?_, fun e enabled held ref => ?_⟩
    · refine refuses_of_exec (arrived.trans (congrArg Host.Outcome.next ?_))
      show takeStopCarriage h t = _
      rw [takeStopCarriage, source, if_pos disabled]
    · refine refuses_of_exec (arrived.trans (congrArg Host.Outcome.next ?_))
      show takeStopCarriage h t = _
      have missing : (t.ctx h.carriage).enrolled = false := Context.enrolled_eq_false.2 absent
      rw [takeStopCarriage, source, if_neg (by rw [enabled]; nofun), if_pos missing]
    · have present : x.state ≠ .unenrolled := by rcases state with eq | eq | eq <;> rw [eq] <;> nofun
      have unheld : ¬(t.ctx h.carriage).state = .held := by
        show ¬x.state = .held
        rcases state with eq | eq | eq <;> rw [eq] <;> nofun
      have kept : stopWithdrawal h.carriage t = t := if_neg unheld
      rw [exec_stopCarriage_taken takes enabled present, kept]
    · have present : x.state ≠ .unenrolled := by rw [held]; nofun
      have holding : (t.ctx h.carriage).state = .held := held
      have entry : (t.ctx h.carriage).holdRef = some e := ref
      have withdrawn : stopWithdrawal h.carriage t = endHold .withdrawn .stop e t := by
        rw [stopWithdrawal, if_pos holding, entry]
      rw [exec_stopCarriage_taken takes enabled present, withdrawn]
  · intro x t up
    exact ⟨fun off => exec_contact takes (takeCause_raises (k := .contact) off),
      fun governing enabled => exec_contact takes (takeCause_halts (k := .contact) governing enabled)⟩

end Sys2Proof.Machine
end

section
/-! The admission check (R84 to R98): refusals in their order, stay moves and entry moves. -/

namespace Sys2Proof.Machine

/-! ### The check and its outcome -/

theorem judgeMove_setReceiver (p : Port) (r : Receiver) (s : State) (h : Header) (speed : Speed) (via : Byte) (target : Option Point) :
    judgeMove (setReceiver p r s) h speed via target = judgeMove s h speed via target := by
  cases p <;> rfl

/-- A move that arrives is judged as the part stood, and the outcome disposed of (R84). -/
theorem exec_move {s : State} {c : Instr} {h : Header} {speed : Speed} {via : Byte} {target : Option Point} (takes : s.TakesU)
    (command : MoveCommand s c h speed via target) :
    exec c s = .next (dispose h (judgeMove s h speed via target) (setReceiver .u .idle s)) := by
  rcases command with ⟨x, y, rfl, rfl⟩ | ⟨dx, dy, rfl, rfl⟩
  · rw [← judgeMove_setReceiver .u .idle s]
    exact exec_arrived_u (f := .moveAbs h x y speed via) takes rfl rfl
  · rw [← judgeMove_setReceiver .u .idle s]
    exact exec_arrived_u (f := .moveRel h dx dy speed via) takes rfl rfl

/-- A refusal changes nothing but the VERDICT (R84, R99). -/
theorem refuses_of_judged {s : State} {c : Instr} {h : Header} {speed bound : Speed} {via : Byte} {target : Option Point} {r : Reason}
    (takes : s.TakesU) (command : MoveCommand s c h speed via target) (judged : judgeMove s h speed via target = .refused r bound) :
    Refuses c s h r bound := by
  refine refuses_of_exec ((exec_move takes command).trans ?_)
  rw [judged]
  rfl

section
variable {s : State} {h : Header} {speed : Speed} {via : Byte} {target : Option Point}

theorem judgeMove_disabled (disabled : s.sources[h.source].enabled = false) :
    judgeMove s h speed via target = .refused .source 0 := if_pos disabled

theorem judgeMove_standby (enabled : s.sources[h.source].enabled = true) (standby : s.gov.state = .standby) :
    judgeMove s h speed via target = .refused .standby 0 := by
  unfold judgeMove
  dsimp only
  rw [if_neg (by rw [enabled]; nofun), if_pos standby]

theorem judgeMove_halted (enabled : s.sources[h.source].enabled = true) (halted : s.gov.state = .halted) :
    judgeMove s h speed via target = .refused .halted 0 := by
  unfold judgeMove
  dsimp only
  rw [if_neg (by rw [enabled]; nofun), if_neg (by rw [halted]; nofun), if_pos halted]

/-- In GOVERNING the carriage's state decides next (R86). -/
theorem judgeMove_governing (enabled : s.sources[h.source].enabled = true) (governing : s.gov.state = .governing) :
    judgeMove s h speed via target = match (s.ctx h.carriage).state with
      | .unenrolled => .refused .carriage 0
      | .moving | .held => .refused .busy 0
      | .faulted => .refused .faulted 0
      | .parked =>
        if (s.ctx h.carriage).verdictOwed then .refused .busy 0
        else if speed = 0 || (0x40 ≤ via.toNat && via.toNat ≤ 0xFE) then .refused .badValue 0
        else match (generalizing := false) target with
          | none => .edge
          | some p => judgeTarget s (s.ctx h.carriage) (s.effectiveLevel h) speed via p := by
  unfold judgeMove
  dsimp only
  rw [if_neg (by rw [enabled]; nofun), if_neg (by rw [governing]; nofun), if_neg (by rw [governing]; nofun)] <;> rfl

/-- A move that may be judged is judged on its target alone (steps 7 to 12). -/
theorem judgeMove_judges (judges : s.Judges h speed via) : judgeMove s h speed via target = match (generalizing := false) target with
    | none => .edge
    | some p => judgeTarget s (s.ctx h.carriage) (s.effectiveLevel h) speed via p := by
  obtain ⟨-, enabled, governing, parked, settled, moves, named⟩ := judges
  have good : (speed = 0 || (0x40 ≤ via.toNat && via.toNat ≤ 0xFE) : Bool) = false := by
    have apart : ¬(0x40 ≤ via.toNat ∧ via.toNat ≤ 0xFE) := by
      rcases named with low | high
      · omega
      · rw [high]; decide
    have fast : ¬speed = 0#16 := moves
    simpa [fast] using apart
  rw [judgeMove_governing enabled governing, parked]
  dsimp only
  rw [if_neg (by rw [settled]; nofun), if_neg (by rw [good]; nofun)]

end

/-- Settles O29: the steps of the check in their order, each refusing as the earlier ones pass. -/
theorem movesRefusedInOrder : Obligations.MovesRefusedInOrder := by
  unfold Obligations.MovesRefusedInOrder
  intro s c h speed via target takes command x
  have refused : ∀ {r : Reason} {bound : Speed}, judgeMove s h speed via target = .refused r bound → Refuses c s h r bound :=
    refuses_of_judged takes command
  refine ⟨fun disabled => refused (judgeMove_disabled disabled), fun enabled => ⟨fun standby =>
    refused (judgeMove_standby enabled standby), fun halted => refused (judgeMove_halted enabled halted), fun governing => ?_⟩⟩
  have judged := judgeMove_governing (speed := speed) (via := via) (target := target) enabled governing
  refine ⟨fun absent => ?_, fun busy => ?_, fun faulted => ?_, fun parked settled => ⟨fun wrong => ?_, fun judges edge => ?_⟩⟩
  · have state : (s.ctx h.carriage).state = .unenrolled := absent
    rw [state] at judged
    exact refused judged
  · rcases busy with moving | held | ⟨parked, owed⟩
    · have state : (s.ctx h.carriage).state = .moving := moving
      rw [state] at judged
      exact refused judged
    · have state : (s.ctx h.carriage).state = .held := held
      rw [state] at judged
      exact refused judged
    · have state : (s.ctx h.carriage).state = .parked := parked
      rw [state] at judged
      exact refused (judged.trans (if_pos owed))
  · have state : (s.ctx h.carriage).state = .faulted := faulted
    rw [state] at judged
    exact refused judged
  · have state : (s.ctx h.carriage).state = .parked := parked
    have unowed : (s.ctx h.carriage).verdictOwed = false := settled
    rw [state] at judged
    refine refused (judged.trans ((if_neg (by rw [unowed]; nofun)).trans (if_pos ?_)))
    simpa using wrong
  · intro t
    have edgeJudged : judgeMove s h speed via target = .edge := (judgeMove_judges judges).trans (by rw [edge])
    have taken : exec c s = .next (takeCause .edge (refuse h .edge 0 (setReceiver .u .idle s))) := by
      rw [exec_move takes command, edgeJudged]; rfl
    have same : (refuse h .edge 0 (setReceiver .u .idle s)).gov = s.gov := (calm_pushUq _ (setReceiver .u .idle s)).sameGov
    exact ⟨fun disabled => taken.trans (congrArg _ (takeCause_raises (k := .edge) (.inr (same ▸ disabled)))),
      fun enabled => taken.trans (congrArg _ (takeCause_halts (k := .edge) (same ▸ judges.2.2.1) (same ▸ enabled)))⟩

/-! ### Stay moves -/

/-- A target in the carriage's own zone is judged on its zone's speed limit alone (R88). -/
theorem judgeTarget_stay {s : State} {x : Context} {p : Point} (level : Level) (speed : Speed) (via : Byte)
    (stays : s.lookup p = x.zone) : judgeTarget s x level speed via p =
      match judgeSpeed (s.placeAt x.zone) (s.placeAt x.zone) speed with
      | .error bound => .refused .speed bound
      | .ok (v, clipped) => .forward { target := p, zone := x.zone, entry := false, plan := .none, speed := v, clipped } := by
  unfold judgeTarget
  dsimp only
  rw [if_pos stays, stays] <;> rfl

/-- The speeds of a move that one place bounds (R95). -/
theorem judgeSpeed_self (b : Place) (speed : Speed) :
    (b.speedLimit = 0 ∨ speed.toNat ≤ b.speedLimit.toNat → judgeSpeed b b speed = .ok (speed, false)) ∧
    (b.speedLimit ≠ 0 → b.speedLimit.toNat < speed.toNat →
      (b.policy = .clip → judgeSpeed b b speed = .ok (b.speedLimit, true)) ∧
      (b.policy = .refuse → judgeSpeed b b speed = .error b.speedLimit)) := by
  have binding := bindingPlace_eq b b
  by_cases none : b.speedLimit = 0
  · exact ⟨fun _ => judgeSpeed_of_unbound (binding.trans (if_pos ⟨none, none⟩)) speed, fun some => absurd none some⟩
  · have bound : bindingPlace b b = some b := by
      rw [binding, if_neg fun both => none both.1, ite_id]
    obtain ⟨within, refuses, clips⟩ := judgeSpeed_of_bound bound speed
    exact ⟨fun fits => within (fits.resolve_left none), fun _ above => ⟨clips above, refuses above⟩⟩

/-- A move that has passed the check is forwarded, with its CLIPPED verdict behind the claim (R97). -/
theorem forward_of_arrived (s : State) (h : Header) (m : Admitted) : forward h m (setReceiver .u .idle s) =
    (let moved := setCtx h.carriage
      { s.ctx h.carriage with
        state := .moving, holdRef := none
        inFlight := some
          { source := h.source, sequence := h.sequence, level := s.effectiveLevel h, target := m.target, targetZone := m.zone,
            originZone := (s.ctx h.carriage).zone, entry := m.entry, pops := m.plan.pops, push := m.plan.push, sent := false,
            deadline := if (s.ctx h.carriage).moveLimit = 0 then none else some (s.ctx h.carriage).moveLimit } }
      (pushDq (.driveMove { h with level := s.effectiveLevel h } m.target m.speed) (setReceiver .u .idle s))
    let claimed := if m.entry then grantClaim m.zone moved else moved
    if m.clipped then pushUq (.verdict { h with level := s.effectiveLevel h } .clipped .none (s.adjusted h) m.speed) claimed
    else claimed) := rfl

/-- Settles O30: a stay move is judged on one limit and forwarded without a claim. -/
theorem stayMove : Obligations.StayMove := by
  unfold Obligations.StayMove
  intro s c h speed via p judges command stays x level limit forwarded
  have judged : judgeMove s h speed via (some p) = _ := (judgeMove_judges judges).trans (judgeTarget_stay _ speed via stays)
  obtain ⟨fits, exceeds⟩ := judgeSpeed_self (s.placeAt x.zone) speed
  have moved : ∀ {v clipped}, judgeSpeed (s.placeAt x.zone) (s.placeAt x.zone) speed = .ok (v, clipped) →
      exec c s = .next (forward h { target := p, zone := x.zone, entry := false, plan := .none, speed := v, clipped }
        (setReceiver .u .idle s)) := fun ok => by
    rw [exec_move judges.1 command, judged, ok]; rfl
  refine ⟨fun within => ?_, fun limited above clips => ?_, fun limited above refuses => ?_⟩
  · exact (moved (fits within)).trans (congrArg _ (forward_of_arrived s h _))
  · exact (moved ((exceeds limited above).1 clips)).trans (congrArg _ (forward_of_arrived s h _))
  · refine refuses_of_judged judges.1 command (judged.trans ?_)
    rw [(exceeds limited above).2 refuses]

/-! ### Entry moves -/

theorem zoneOpen_eq_false_iff (s : State) (z : Zone) : s.zoneOpen z = false ↔
    ∃ w ∈ (s.placeAt z).window, s.time.windows[w].inUse = false ∨ s.time.windows[w].isOpen = false := by
  unfold State.zoneOpen
  cases (s.placeAt z).window with
  | none => simp
  | some w =>
    dsimp only
    rw [Bool.and_eq_false_iff]
    exact ⟨fun shut => ⟨w, rfl, shut⟩, fun ⟨_, same, shut⟩ => Option.some.inj same ▸ shut⟩

/-- A target in another zone passes the window, the clearance and the speed, and is then judged on room (R89 to R96). -/
theorem judgeTarget_entry {s : State} {x : Context} {p : Point} (level : Level) (speed : Speed) (via : Byte)
    (enters : s.lookup p ≠ x.zone) : judgeTarget s x level speed via p =
      if s.zoneOpen (s.lookup p) = false then .refused .closed 0
      else match judgeClearance s x level via (s.lookup p) with
        | .error r => .refused r 0
        | .ok plan =>
          match judgeSpeed (s.placeAt x.zone) (s.placeAt (s.lookup p)) speed with
          | .error bound => .refused .speed bound
          | .ok (v, clipped) => judgeRoom s { target := p, zone := s.lookup p, entry := true, plan, speed := v, clipped } := by
  unfold judgeTarget
  dsimp only
  rw [if_neg enters] <;> rfl

/-- The floor zone is always free, and so is a zone with room and no waiters (R96). -/
theorem judgeRoom_forward {s : State} {m : Admitted} (free : s.freelyEntered m.zone = true ∨ m.zone = 64) :
    judgeRoom s m = .forward m := by
  unfold judgeRoom
  split
  next => rfl
  next full =>
    have floor : m.zone = 64 := free.resolve_left full
    exact dif_neg (by rw [floor]; decide)

theorem judgeRoom_full {s : State} {m : Admitted} {i : ZoneIndex} (full : s.freelyEntered m.zone = false) (zone : m.zone = i.castSucc) :
    judgeRoom s m = if (s.placeAt m.zone).holdLimit = 0 then .refused .full 0
      else match s.occ.lowestFree with
        | none => .refused .noRoom 0
        | some e => .hold m i e := by
  have index : m.zone.val = i.val := congrArg Fin.val zone
  have small : m.zone.val < 64 := index ▸ i.isLt
  have same : (⟨m.zone.val, small⟩ : ZoneIndex) = i := Fin.ext index
  unfold judgeRoom
  rw [if_neg (by rw [full]; nofun), dif_pos small, same] <;> rfl

theorem lowestFree_eq_none {o : Occupancy} (full : ∀ e : Fin 16, (o.pool[e]).isSome) : o.lowestFree = none :=
  List.find?_eq_none.2 fun e _ => by
    have used := full e
    simpa [Option.isSome_iff_ne_none] using used

theorem lowestFree_eq_some {o : Occupancy} {e : Fin 16} (empty : o.pool[e] = none) (below : ∀ e' : Fin 16, e' < e → (o.pool[e']).isSome) :
    o.lowestFree = some e := by
  refine List.find?_eq_some_iff_getElem.2 ⟨by rw [empty]; rfl, e.val, by simp, by simp, fun j smaller => ?_⟩
  have used := below ⟨j, smaller.trans e.isLt⟩ smaller
  simpa [Option.isSome_iff_ne_none] using used

/-- An answer carries the level and the adjusted mark its source gives (R6, R81). -/
theorem answer_of_sources {s u : State} (same : u.sources = s.sources) (h : Header) (v : Verdict) (r : Reason) (speed : Speed) :
    answer h v r speed u = pushUq (.verdict { h with level := s.effectiveLevel h } v r (s.adjusted h) speed) u := by
  rw [answer, State.effectiveHeader, State.effectiveLevel, State.adjusted, same]
  rfl

/-- A held move waits at the tail, in its entry, and is answered HELD (R98). -/
theorem hold_of_arrived (s : State) (h : Header) (m : Admitted) (i : ZoneIndex) (e : Fin 16) (zone : m.zone = i.castSucc) :
    hold h m i e (setReceiver .u .idle s) =
      pushUq (.verdict { h with level := s.effectiveLevel h } .held .none (s.adjusted h) m.speed)
        (takeEntry e
          { carriage := h.carriage, source := h.source, sequence := h.sequence, level := s.effectiveLevel h, adjusted := s.adjusted h,
            target := m.target, zone := i, speed := m.speed, clipped := m.clipped, pops := m.plan.pops, push := m.plan.push,
            remaining := (s.placeAt m.zone).holdLimit }
          (setCtx h.carriage { s.ctx h.carriage with state := .held, holdRef := some e }
            (setWaits i (s.occ.waits[i] ++ [e]) (setReceiver .u .idle s)))) := by
  have entry : (setReceiver .u .idle s).holdEntry h m i =
      { carriage := h.carriage, source := h.source, sequence := h.sequence, level := s.effectiveLevel h, adjusted := s.adjusted h,
        target := m.target, zone := i, speed := m.speed, clipped := m.clipped, pops := m.plan.pops, push := m.plan.push,
        remaining := (s.placeAt m.zone).holdLimit } := by rw [zone]; rfl
  rw [← entry]
  exact answer_of_sources (internals_takeEntry e _ _).traffic.sources h .held .none m.speed

/-- Settles O31: the steps behind step 8, each refusing as the earlier ones pass; what passes is forwarded or held. -/
theorem entryMove : Obligations.EntryMove := by
  unfold Obligations.EntryMove
  intro s c h speed via p judges command enters x level z t shut
  have judged : judgeMove s h speed via (some p) = _ := (judgeMove_judges judges).trans (judgeTarget_entry _ speed via enters)
  have shut_iff : s.zoneOpen z = false ↔ shut := zoneOpen_eq_false_iff s z
  have refused : ∀ {r : Reason} {bound : Speed}, judgeMove s h speed via (some p) = .refused r bound → Refuses c s h r bound :=
    refuses_of_judged judges.1 command
  refine ⟨fun closed => refused (judged.trans (if_pos (shut_iff.2 closed))), fun opened => ?_⟩
  replace judged := judged.trans (if_neg (mt shut_iff.1 opened))
  refine ⟨fun reason unclear => refused (judged.trans (by rw [show judgeClearance s _ _ via _ = _ from unclear])),
    fun plan clear => ?_⟩
  rw [show judgeClearance s (s.ctx h.carriage) (s.effectiveLevel h) via (s.lookup p) = .ok plan from clear] at judged
  refine ⟨fun bound fast => refused (judged.trans ?_), fun v clipped slow => ?_⟩
  · rw [show judgeSpeed (s.placeAt (s.ctx h.carriage).zone) (s.placeAt (s.lookup p)) speed = .error bound from fast]
  dsimp only at judged
  rw [show judgeSpeed (s.placeAt (s.ctx h.carriage).zone) (s.placeAt (s.lookup p)) speed = .ok (v, clipped) from slow] at judged
  dsimp only at judged
  intro room
  have room_iff : s.freelyEntered z = true ↔ room := freelyEntered_iff s z
  refine ⟨fun free => ?_, fun full i zone => ?_⟩
  · intro forwarded
    have passed := judged.trans (judgeRoom_forward (m := { target := p, zone := z, entry := true, plan, speed := v, clipped })
      (free.imp room_iff.2 id))
    have taken : exec c s = .next (forward h { target := p, zone := z, entry := true, plan, speed := v, clipped } t) := by
      rw [exec_move judges.1 command, passed]; rfl
    refine ⟨fun whole => ?_, fun cut => ?_⟩
    · subst whole; exact taken.trans (congrArg _ (forward_of_arrived s h _))
    · subst cut; exact taken.trans (congrArg _ (forward_of_arrived s h _))
  · have crowded : s.freelyEntered z = false := Bool.not_eq_true _ ▸ mt room_iff.1 full
    replace judged := judged.trans
      (judgeRoom_full (m := { target := p, zone := z, entry := true, plan, speed := v, clipped }) crowded zone)
    refine ⟨fun none => refused (judged.trans (if_pos none)), fun holds taken => refused (judged.trans ?_),
      fun e holds empty below => ?_⟩
    · rw [if_neg holds, lowestFree_eq_none taken]
    · rw [if_neg holds, lowestFree_eq_some empty below] at judged
      have taken : exec c s = .next (hold h { target := p, zone := z, entry := true, plan, speed := v, clipped } i e t) := by
        rw [exec_move judges.1 command, judged]; rfl
      exact taken.trans (congrArg _ (hold_of_arrived s h _ i e zone))

end Sys2Proof.Machine
end

section
/-! The end of a hold, HOLD_WARN, feeding, and the offer of a zone (R106, R110 to R115, R119 to R121). -/

namespace Sys2Proof.Machine

theorem uqOpen_iff (s : State) : s.uqOpen = true ↔ 3 < 16 - s.link.uq.length := decide_eq_true_iff

theorem dqOpen_iff (s : State) : s.dqOpen = true ↔ 3 < 16 - s.link.dq.length := decide_eq_true_iff

theorem uqOpen_eq_false {s : State} (few : 16 - s.link.uq.length ≤ 3) : s.uqOpen = false := by
  rw [← Bool.not_eq_true, uqOpen_iff]; omega

/-! ### The end of a hold -/

/-- The end of a hold: its report, and the pending mark of a list left empty (R113, R115). -/
theorem endHold_of_used (v : Verdict) (r : Reason) {e : Fin 16} {h : HoldEntry} {s : State} (used : s.occ.pool[e] = some h) :
    endHold v r e s = if ((s.occ.waits[h.zone]).erase e).isEmpty then
      setRecheck h.zone false (appendRecord (h.report v r) (endUnreported e h s))
      else appendRecord (h.report v r) (endUnreported e h s) := by
  have unreported : modifyCtx h.carriage (fun x => { x with state := .parked, holdRef := none })
      (freeEntry e (setWaits h.zone (s.occ.waits[h.zone].erase e) s)) = endUnreported e h s := by
    rw [modifyCtx, ctx_freeEntry]; rfl
  have left : (appendRecord (h.report v r) (endUnreported e h s)).occ.waits[h.zone] = (s.occ.waits[h.zone]).erase e := by
    rw [appendRecord_waits, endUnreported, setCtx_occ, freeEntry_waits, setWaits_occ]
    simp
  unfold endHold
  rw [used]
  dsimp only
  rw [unreported, left]

/-- What the end of a hold leaves of the occupancy unit (R113, R115). -/
theorem endHold_occ (v : Verdict) (r : Reason) {e : Fin 16} {h : HoldEntry} {s : State} (used : s.occ.pool[e] = some h) :
    ∃ warn backlog, (endHold v r e s).occ =
      { s.occ with
        pool := s.occ.pool.set e.val none
        waits := s.occ.waits.set h.zone.val ((s.occ.waits[h.zone]).erase e)
        recheck := if ((s.occ.waits[h.zone]).erase e).isEmpty then s.occ.recheck.set h.zone.val false else s.occ.recheck
        holdWarn := warn, backlog := backlog } := by
  obtain ⟨backlog, reported⟩ := appendRecord_occ (h.report v r) (endUnreported e h s)
  have unreported := evalHoldWarn_freed
    { setWaits h.zone ((s.occ.waits[h.zone]).erase e) s with
      occ := { (setWaits h.zone ((s.occ.waits[h.zone]).erase e) s).occ with pool := s.occ.pool.set e.val none } }
  rw [show (endUnreported e h s).occ = _ from unreported] at reported
  rw [endHold_of_used v r used]
  split
  · exact ⟨_, backlog, by rw [setRecheck_occ, reported]; rfl⟩
  · exact ⟨_, backlog, reported⟩

/-- What the end of a hold leaves of the link and the contexts is what its report leaves. -/
theorem endHold_reported (v : Verdict) (r : Reason) {e : Fin 16} {h : HoldEntry} {s : State} (used : s.occ.pool[e] = some h) :
    (endHold v r e s).link = (appendRecord (h.report v r) (endUnreported e h s)).link ∧
      (endHold v r e s).carriages = (appendRecord (h.report v r) (endUnreported e h s)).carriages ∧
      (endHold v r e s).occ.backlog = (appendRecord (h.report v r) (endUnreported e h s)).occ.backlog := by
  rw [endHold_of_used v r used]
  generalize appendRecord (h.report v r) (endUnreported e h s) = u
  split
  · exact ⟨rfl, rfl, rfl⟩
  · exact ⟨rfl, rfl, rfl⟩

/-- A report with room for it goes into UQ at once (R119, R120). -/
theorem appendRecord_fed {r : BacklogRecord} {s : State} (room : s.uqOpen = true) (none : s.occ.backlog = []) :
    (appendRecord r s).occ.backlog = [] ∧
      (appendRecord r s).link.uq = s.link.uq ++ [{ frame := r.frame, answersReset := false }] ∧
      ∀ c, (appendRecord r s).ctx c = if c = r.carriage then { s.ctx c with verdictOwed := false } else s.ctx c := by
  rw [appendRecord_of_open r room none]
  refine ⟨?_, pushUq_uq _ _, fun c => ?_⟩
  · show (pushUq r.frame (modifyCtx r.carriage _ s)).occ.backlog = []
    rw [pushUq, pushUqMarked, evalPauses_occ]
    exact none
  · rw [ctx_modifyCtx, ctx_pushUq, ctx_modifyCtx]
    split
    · next here =>
      subst here
      rw [if_pos rfl]
    · next other => rw [ctx_pushUq, ctx_modifyCtx, if_neg other]

/-- A report without room waits, and its carriage owes a verdict (R119). -/
theorem appendRecord_waits_closed {r : BacklogRecord} {s : State} (full : s.uqOpen = false) :
    (appendRecord r s).occ.backlog = s.occ.backlog ++ [r] ∧ (appendRecord r s).link.uq = s.link.uq ∧
      (appendRecord r s).ctx r.carriage = { s.ctx r.carriage with verdictOwed := true } := by
  rw [appendRecord_of_closed r full]
  refine ⟨rfl, rfl, ?_⟩
  rw [ctx_modifyCtx, if_pos rfl]
  rfl

theorem uqOpen_endUnreported (e : Fin 16) (h : HoldEntry) (s : State) : (endUnreported e h s).uqOpen = s.uqOpen := by
  rw [State.uqOpen, State.freeUq, endUnreported_link]; rfl

theorem ctx_endUnreported_own (e : Fin 16) (h : HoldEntry) (s : State) :
    (endUnreported e h s).ctx h.carriage = { s.ctx h.carriage with state := .parked, holdRef := none } := by
  rw [ctx_endUnreported, ctx_setCtx, if_pos rfl]

theorem expireHold_of_due {s : State} {e : Fin 16} {h : HoldEntry} (used : s.occ.pool[e] = some h) (due : h.remaining = 1) :
    expireHold e s = endHold .expired .none e s := by
  rw [expireHold, used]
  exact if_pos due

theorem expireHold_of_not_due {s : State} {e : Fin 16} (early : ∀ h ∈ s.occ.pool[e], h.remaining ≠ 1) : expireHold e s = s := by
  unfold expireHold
  split
  next h used => exact if_neg (early h used)
  next => rfl

/-! ### HOLD_WARN -/

/-- HOLD_WARN after an entry was taken: at 12 in use it is set, once (R121). -/
theorem evalHoldWarn_rose (s : State) :
    evalHoldWarn true s = if s.occ.inUse = 12 ∧ s.occ.holdWarn = false then
      raise .holdx { s with occ := { s.occ with holdWarn := true } } else s := by
  unfold evalHoldWarn
  simp only [Bool.true_and, Bool.not_true, Bool.false_and, Bool.and_eq_true, decide_eq_true_eq, Bool.not_eq_true',
    Bool.false_eq_true, if_false]

/-- HOLD_WARN after an entry was freed: at 8 in use it is cleared, once (R121). -/
theorem evalHoldWarn_fell (s : State) :
    evalHoldWarn false s = if s.occ.inUse = 8 ∧ s.occ.holdWarn = true then
      raise .holdx { s with occ := { s.occ with holdWarn := false } } else s := by
  unfold evalHoldWarn
  simp only [Bool.not_false, Bool.true_and, Bool.false_and, Bool.and_eq_true, decide_eq_true_eq, Bool.false_eq_true, if_false]

/-- Settles O42: the end of a hold is its report on the state without it; HOLD_WARN and feeding by their equations. -/
theorem holdEnds : Obligations.HoldEnds := by
  unfold Obligations.HoldEnds
  refine ⟨⟨fun s v r e h used => ?_, fun s e h used due => congrArg _ (expireHold_of_due used due),
    fun s e early => congrArg _ (expireHold_of_not_due early)⟩, ⟨fun s e h => ?_, fun s e => ?_⟩, fun s still => ?_,
    fun s r rest waiting room => ?_⟩
  · intro t x list
    obtain ⟨warn, backlog, occ⟩ := endHold_occ v r used
    obtain ⟨link, carriages, records⟩ := endHold_reported v r used
    have ctx : t.ctx h.carriage = (appendRecord (h.report v r) (endUnreported e h s)).ctx h.carriage := by
      rw [State.ctx, carriages]; rfl
    have calm := calm_appendRecord (h.report v r) (endUnreported e h s)
    refine ⟨?_, fun e' other => ?_, ?_, fun z other => ?_, ?_, fun z other => ?_, ?_, ?_, fun room none => ?_, fun full => ?_⟩
    · rw [occ]; simp
    · rw [occ]
      exact Vector.getElem_set_ne e.isLt e'.isLt fun eq => other (Fin.ext eq.symm)
    · rw [occ]; simp [list]
    · rw [occ]
      exact Vector.getElem_set_ne h.zone.isLt z.isLt fun eq => other (Fin.ext eq.symm)
    · rw [occ]
      show (if list.isEmpty then s.occ.recheck.set h.zone.val false else s.occ.recheck)[h.zone] = _
      cases list.isEmpty with
      | true => simp
      | false => simp
    · rw [occ]
      show (if list.isEmpty then s.occ.recheck.set h.zone.val false else s.occ.recheck)[z] = _
      cases list.isEmpty with
      | true => exact Vector.getElem_set_ne h.zone.isLt z.isLt fun eq => other (Fin.ext eq.symm)
      | false => rfl
    · rw [occ]
    · rw [link, calm.sameDq, endUnreported_link]
    · have opened : (endUnreported e h s).uqOpen = true := by rw [uqOpen_endUnreported]; exact (uqOpen_iff s).2 room
      obtain ⟨fed, uq, own⟩ := appendRecord_fed (r := h.report v r) opened ((endUnreported_backlog e h s).trans none)
      refine ⟨records.trans fed, ?_, ?_⟩
      · rw [link, uq, endUnreported_link]
      · rw [ctx, own, if_pos (show h.carriage = (h.report v r).carriage from rfl), ctx_endUnreported_own]
    · have closed : (endUnreported e h s).uqOpen = false := by rw [uqOpen_endUnreported]; exact uqOpen_eq_false full
      obtain ⟨waits, uq, own⟩ := appendRecord_waits_closed (r := h.report v r) closed
      refine ⟨?_, ?_, ?_⟩
      · rw [records, waits, endUnreported_backlog]
      · rw [link, uq, endUnreported_link]
      · rw [ctx]
        exact own.trans (by rw [show (h.report v r).carriage = h.carriage from rfl, ctx_endUnreported_own])
  · intro t
    exact ⟨fun full clear => (evalHoldWarn_rose t).trans (if_pos ⟨full, clear⟩),
      fun other => (evalHoldWarn_rose t).trans (if_neg fun both => other.elim (· both.1) fun set => by
        have clear : s.occ.holdWarn = false := both.2
        rw [set] at clear; cases clear)⟩
  · intro t
    exact ⟨fun few set => (evalHoldWarn_fell t).trans (if_pos ⟨few, set⟩),
      fun other => (evalHoldWarn_fell t).trans (if_neg fun both => other.elim (· both.1) fun clear => by
        have set : s.occ.holdWarn = true := both.2
        rw [clear] at set; cases set)⟩
  · rcases still with none | full
    · exact feed_of_nil none
    · exact feed_of_closed (uqOpen_eq_false full)
  · have fed := feed_of_cons waiting ((uqOpen_iff s).2 room)
    rw [modifyCtx, ctx_pushUq] at fed
    exact fed

/-! ### The offer of a zone -/

theorem recheckOf_castSucc (s : State) (z : ZoneIndex) : s.recheckOf z.castSucc = s.occ.recheck[z] := dif_pos z.isLt

theorem reexamine_blocked_iff (s : State) (z : ZoneIndex) : s.passAllowed z = false ↔
    s.gov.state ≠ .governing ∨ s.hasRoom z.castSucc = false ∨ s.occ.waits[z] = [] ∨ 16 - s.link.dq.length ≤ 3 ∨
      16 - s.link.uq.length ≤ 3 := by
  rw [State.passAllowed, Bool.and_eq_false_iff, Bool.and_eq_false_iff, Bool.and_eq_false_iff, Bool.and_eq_false_iff,
    decide_eq_false_iff_not, Bool.not_eq_false', List.isEmpty_iff, ← Bool.not_eq_true s.dqOpen, ← Bool.not_eq_true s.uqOpen,
    dqOpen_iff, uqOpen_iff, Nat.not_lt, Nat.not_lt, or_assoc, or_assoc, or_assoc]

theorem passAllowed_of {s : State} {z : ZoneIndex} (governing : s.gov.state = .governing) (room : s.hasRoom z.castSucc = true)
    (waiting : s.occ.waits[z] ≠ []) (dq : 3 < 16 - s.link.dq.length) (uq : 3 < 16 - s.link.uq.length) :
    s.passAllowed z = true := by
  rw [← Bool.not_eq_false, reexamine_blocked_iff]
  rintro (other | full | empty | few | few)
  · exact other governing
  · rw [room] at full; cases full
  · exact waiting empty
  · omega
  · omega

/-- What a pass leaves of the occupancy unit (R111). -/
theorem pass_occ (z : ZoneIndex) (e : Fin 16) (h : HoldEntry) (rest : List (Fin 16)) (s : State) : ∃ warn backlog,
    (pass z e h rest s).occ =
      { s.occ with
        pool := s.occ.pool.set e.val none, waits := s.occ.waits.set z.val rest
        claims := s.occ.claims.set z.val (s.claimCount z.castSucc + 1), holdWarn := warn, backlog := backlog } := by
  obtain ⟨backlog, reported⟩ := appendRecord_occ (h.report .released .none) (passUnreported z e h rest s)
  have driven : (pushDq h.driveMove (setWaits z rest s)).occ = { s.occ with waits := s.occ.waits.set z.val rest } := pushDq_occ _ _
  have claimed : (grantClaim z.castSucc (setCtx h.carriage ((s.ctx h.carriage).passed h) (pushDq h.driveMove (setWaits z rest s)))).occ =
      { s.occ with waits := s.occ.waits.set z.val rest, claims := s.occ.claims.set z.val (s.claimCount z.castSucc + 1) } := by
    rw [grantClaim_occ, setCtx_occ, driven, State.claimCount, setCtx_occ, driven]
    rfl
  rw [pass_eq, reported, passUnreported, freeEntry, evalHoldWarn_freed, claimed]
  exact ⟨_, backlog, rfl⟩

/-- What a pass with room for its report leaves of the queues and the contexts (R111, R120). -/
theorem pass_fed {z : ZoneIndex} {e : Fin 16} {h : HoldEntry} {rest : List (Fin 16)} {s : State} (opened : s.uqOpen = true)
    (none : s.occ.backlog = []) :
    (pass z e h rest s).link.dq = s.link.dq ++ [h.driveMove] ∧
      (pass z e h rest s).link.uq = s.link.uq ++ [{ frame := (h.report .released .none).frame, answersReset := false }] ∧
      (pass z e h rest s).ctx h.carriage = { (s.ctx h.carriage).passed h with verdictOwed := false } ∧
      (∀ k, k ≠ h.carriage → (pass z e h rest s).ctx k = s.ctx k) ∧ (pass z e h rest s).occ.backlog = [] := by
  have link : (passUnreported z e h rest s).link = (pushDq h.driveMove (setWaits z rest s)).link := passUnreported_link ..
  have frames : (passUnreported z e h rest s).link.uq = s.link.uq := (congrArg Link.uq link).trans (pushDq_uq _ _)
  have moves : (passUnreported z e h rest s).link.dq = s.link.dq ++ [h.driveMove] :=
    (congrArg Link.dq link).trans (pushDq_dq _ _)
  have still : (passUnreported z e h rest s).uqOpen = true := by rwa [State.uqOpen, State.freeUq, frames]
  obtain ⟨fed, reported, own⟩ := appendRecord_fed (r := h.report .released .none) still
    ((passUnreported_backlog z e h rest s).trans none)
  rw [frames] at reported
  rw [pass_eq]
  refine ⟨(calm_appendRecord _ _).sameDq.trans moves, reported, ?_, fun k other => ?_, fed⟩
  · rw [own, if_pos (show h.carriage = (h.report .released .none).carriage from rfl), ctx_passUnreported, ctx_setCtx, if_pos rfl]
  · rw [own, if_neg (show ¬k = (h.report .released .none).carriage from other), ctx_passUnreported, ctx_setCtx, if_neg other]

/-- A pass that empties its list, with room for its report: the last waiter leaves (R111). -/
theorem offer_single {s : State} {z : ZoneIndex} {e : Fin 16} {h : HoldEntry} (governing : s.gov.state = .governing)
    (room : s.hasRoom z.castSucc = true) (waiting : s.occ.waits[z] = [e]) (used : s.occ.pool[e] = some h)
    (dq : 3 < 16 - s.link.dq.length) (uq : 3 < 16 - s.link.uq.length) :
    offer z.castSucc s = setRecheck z false (pass z e h [] s) := by
  have allowed : s.passAllowed z = true := passAllowed_of governing room (by rw [waiting]; nofun) dq uq
  have empty : (pass z e h [] s).occ.waits[z] = [] := by simp [pass_waits]
  have blocked : (pass z e h [] s).passAllowed z = false := (reexamine_blocked_iff _ z).2 (.inr (.inr (.inl empty)))
  rw [offer_zone, waiting, if_neg (by nofun), if_pos room, reexamine_of_pass waiting used allowed, reexamine_of_blocked blocked,
    markRecheck, empty, List.isEmpty_nil, Bool.not_true, Bool.and_false]

/-- Settles O43: the offer by its cases; a re-examination is a pass and a re-examination of what it leaves. -/
theorem offerAfterRelease : Obligations.OfferAfterRelease := by
  unfold Obligations.OfferAfterRelease
  refine ⟨⟨offer_floor, fun s z => ⟨fun empty => ?_, fun waiting full => ?_, fun waiting room other => ?_, fun waiting room => ?_⟩,
    fun s z => rfl, fun s i => ⟨waitList_castSucc s i, recheckOf_castSucc s i⟩, fun s => ⟨rfl, rfl⟩, fun s z => (hasRoom_iff s z).symm⟩,
    fun s z => ⟨fun blocked => reexamine_of_blocked ((reexamine_blocked_iff s z).2 blocked),
      fun e rest h governing room waiting used zone dq uq => ?_⟩,
    fun s z e h governing room waiting used zone dq uq none => ?_⟩
  · rw [offer_zone, empty]; rfl
  · rw [offer_zone, if_neg (by simpa using waiting), full]; rfl
  · have waits : ¬(s.occ.waits[z]).isEmpty = true := by simpa using waiting
    have blocked : s.passAllowed z = false := (reexamine_blocked_iff s z).2 (.inl other)
    rw [offer_zone, if_neg waits, if_pos room, reexamine_of_blocked blocked, markRecheck, room, (Bool.not_eq_true _).mp waits]
    rfl
  · have waits : ¬(s.occ.waits[z]).isEmpty = true := by simpa using waiting
    rw [offer_zone, if_neg waits, if_pos room]
  · intro x driven moving
    subst zone
    refine (reexamine_of_pass waiting used (passAllowed_of governing room (by rw [waiting]; nofun) dq uq)).trans ?_
    rw [pass_eq]
    rfl
  · intro t x header
    subst zone
    have passed : t = setRecheck h.zone false (pass h.zone e h [] s) := offer_single governing room waiting used dq uq
    obtain ⟨driven, reported, own, others, fed⟩ := pass_fed (z := h.zone) (e := e) (h := h) (rest := []) ((uqOpen_iff s).2 uq) none
    obtain ⟨warn, backlog, occ⟩ := pass_occ h.zone e h [] s
    generalize pass h.zone e h [] s = v at passed driven reported own others fed occ
    clear_value t
    subst passed
    refine ⟨driven, reported, own, others, ?_, ?_, ?_, setRecheck_self _ _ _, fed⟩
    · rw [setRecheck_occ, occ]
    · rw [setRecheck_occ, occ]; simp
    · rw [setRecheck_occ, occ]; simp

end Sys2Proof.Machine
end

section
/-! Cycle timers, SET_TIME and WRITE_TIMER (R130, R139 to R141), and the checks of the management agent (R163). -/

namespace Sys2Proof.Machine

/-! ### The expiry of a cycle timer -/

theorem expireTimer_of_due {s : State} {n : Fin 4} (enabled : s.time.timers[n].enabled = true) (due : s.time.timers[n].counter = 1) :
    expireTimer n s = timerAction n s.time.timers[n].action
      (setTimer n { s.time.timers[n] with counter := s.time.timers[n].preset } s) := by
  unfold expireTimer
  dsimp only
  exact if_pos (by rw [Bool.and_eq_true, decide_eq_true_iff]; exact ⟨enabled, due⟩)

theorem expireTimer_of_not_due {s : State} {n : Fin 4} (idle : s.time.timers[n].enabled = false ∨ s.time.timers[n].counter ≠ 1) :
    expireTimer n s = s := by
  unfold expireTimer
  dsimp only
  refine if_neg ?_
  rw [Bool.and_eq_true, decide_eq_true_iff]
  rintro ⟨enabled, due⟩
  rcases idle with off | other
  · rw [off] at enabled; cases enabled
  · exact other due

theorem GovernorState.code_eq (g : GovernorState) :
    g.code = match g with | .standby => 0x00 | .governing => 0x01 | .halted => 0x02 := by cases g <;> rfl

theorem byteOfBool_haltCauseAny (g : Governor) : byteOfBool g.haltCauseAny = if g.flags &&& 0x01F = 0 then 0x00 else 0x01 := by
  rw [byteOfBool, Governor.haltCauseAny, haltCauseMask]
  by_cases none : g.flags &&& 0x01F = 0
  · rw [if_pos none, if_neg (by simpa using none)]
  · rw [if_neg none, if_pos (by simpa using none)]

/-! ### SET_TIME -/

/-- The tests of SET_TIME, field by field (R127, R130). -/
theorem Calendar.valid_iff_fields (c : Calendar) : c.valid = true ↔
    (∀ b ∈ [c.seconds, c.minutes, c.hours, c.day, c.month, c.year], b.toNat / 16 ≤ 9 ∧ b.toNat % 16 ≤ 9) ∧
      bcdValue c.seconds ≤ 59 ∧ bcdValue c.minutes ≤ 59 ∧ bcdValue c.hours ≤ 23 ∧
      c.weekday ∈ [0x01, 0x02, 0x04, 0x08, 0x10, 0x20, 0x40] ∧ 1 ≤ bcdValue c.month ∧ bcdValue c.month ≤ 12 ∧
      1 ≤ bcdValue c.day ∧ bcdValue c.day ≤ monthLength (bcdValue c.month) (bcdValue c.year) := by
  rw [Calendar.valid_iff, Calendar.TimeValid, Calendar.DateValid, isWeekday_iff]
  simp only [bcdWithin_iff, List.forall_mem_cons, Nat.zero_le, true_and, List.not_mem_nil, false_implies, implies_true, and_true]
  have year : c.year.toNat / 16 ≤ 9 ∧ c.year.toNat % 16 ≤ 9 → bcdValue c.year ≤ 99 := by
    rw [bcdValue]; omega
  tauto

theorem reqSetTime_valid {ops : List Byte} (valid : (calendarOf ops).valid = true) (s : State) : reqSetTime ops s =
    .ok { s with time := { s.time with calendar := calendarOf ops, subSecond := 0, timeInvalid := false } } := if_pos valid

theorem reqSetTime_invalid {ops : List Byte} (invalid : ¬(calendarOf ops).valid = true) (s : State) :
    reqSetTime ops s = .refuse .badValue s := if_neg invalid

/-! ### WRITE_TIMER -/

theorem timerSourceOf_eq_some {b : Byte} (small : b.toNat ≤ 3) : timerSourceOf b =
    some (if b = 0x00 then .ms1 else if b = 0x01 then .ms10 else if b = 0x02 then .s1 else .min1) := by
  unfold timerSourceOf
  split
  · rfl
  · split
    · rfl
    · split
      · rfl
      · exact if_pos (by bv_omega)

theorem timerSourceOf_eq_none {b : Byte} (large : 3 < b.toNat) : timerSourceOf b = none := by
  unfold timerSourceOf
  rw [if_neg (by bv_omega), if_neg (by bv_omega), if_neg (by bv_omega), if_neg (by bv_omega)]

theorem timerActionOf_eq_some {b : Byte} (small : b.toNat ≤ 1) :
    timerActionOf b = some (if b = 0x00 then .event else .heartbeat) := by
  unfold timerActionOf
  split
  · rfl
  · exact if_pos (by bv_omega)

theorem timerActionOf_eq_none {b : Byte} (large : 1 < b.toNat) : timerActionOf b = none := by
  unfold timerActionOf
  rw [if_neg (by bv_omega), if_neg (by bv_omega)]

/-- What WRITE_TIMER refuses as BAD_VALUE (R141). -/
def TimerBad (ops : List Byte) : Prop :=
  1 < (byteAt ops 1).toNat ∨ 3 < (byteAt ops 2).toNat ∨ wordAt ops 3 = 0 ∨ 1 < (byteAt ops 5).toNat

/-- The timer WRITE_TIMER writes over `old` (R141). -/
def writtenTimer (ops : List Byte) (old : Timer) : Timer :=
  { enabled := decide (byteAt ops 1 = 1)
    source := if byteAt ops 2 = 0x00 then .ms1 else if byteAt ops 2 = 0x01 then .ms10 else if byteAt ops 2 = 0x02 then .s1 else .min1
    preset := wordAt ops 3
    action := if byteAt ops 5 = 0x00 then .event else .heartbeat
    counter := writtenCounter old (decide (byteAt ops 1 = 1)) (wordAt ops 3) }

theorem writtenCounter_eq (t : Timer) (enabled : Bool) (preset : BitVec 16) : writtenCounter t enabled preset =
    if t.enabled = false ∧ enabled = true then preset else t.counter := by
  unfold writtenCounter
  simp only [Bool.and_eq_true, Bool.not_eq_true']

theorem reqWriteTimer_beyond {s : State} {ops : List Byte} (unlocked : s.gov.lock = false) (beyond : 3 < (byteAt ops 0).toNat) :
    reqWriteTimer ops s = .refuse .badIndex s := by
  rw [reqWriteTimer, if_neg (by rw [unlocked]; nofun), timerOf_eq_none beyond]

theorem reqWriteTimer_bad {s : State} {ops : List Byte} {n : Fin 4} (unlocked : s.gov.lock = false)
    (names : (byteAt ops 0).toNat = n.val) (bad : TimerBad ops) : reqWriteTimer ops s = .refuse .badValue s := by
  rw [reqWriteTimer, if_neg (by rw [unlocked]; nofun), timerOf_eq_some names]
  dsimp only
  split
  next enabled source action is_bool is_source is_action =>
    refine if_pos ?_
    rcases bad with large | large | zero | large
    · rw [boolOf_eq_none large] at is_bool; cases is_bool
    · rw [timerSourceOf_eq_none large] at is_source; cases is_source
    · exact zero
    · rw [timerActionOf_eq_none large] at is_action; cases is_action
  next => rfl

theorem reqWriteTimer_good {s : State} {ops : List Byte} {n : Fin 4} (unlocked : s.gov.lock = false)
    (names : (byteAt ops 0).toNat = n.val) (good : ¬TimerBad ops) :
    reqWriteTimer ops s = .ok (setTimer n (writtenTimer ops s.time.timers[n]) s) := by
  rw [TimerBad, not_or, not_or, not_or, Nat.not_lt, Nat.not_lt, Nat.not_lt] at good
  obtain ⟨enabled, source, preset, action⟩ := good
  rw [reqWriteTimer, if_neg (by rw [unlocked]; nofun), timerOf_eq_some names, boolOf_eq_some enabled, timerSourceOf_eq_some source,
    timerActionOf_eq_some action]
  exact if_neg preset

/-- Settles O48: the expiry by the timer's state, and the two writes by the tests of R130 and R141. -/
theorem cycleTimersAndSetTime : Obligations.CycleTimersAndSetTime := by
  unfold Obligations.CycleTimersAndSetTime
  refine ⟨fun s n => ?_, fun s h rid ops takes manages length => ?_, fun s h rid ops takes manages length => ?_⟩
  · intro t reloaded beat
    have heartbeat : reloaded.heartbeat = beat := by
      rw [State.heartbeat, GovernorState.code_eq, byteOfBool_haltCauseAny]
      rfl
    have expires : t.enabled = true → t.counter = 1 → exec (.cycleTimerExpiry n) s = .next (timerAction n t.action reloaded) :=
      fun enabled due => congrArg Host.Outcome.next (expireTimer_of_due enabled due)
    refine ⟨fun enabled due action => ?_, fun enabled due action room => ?_, fun enabled due action full => ?_,
      fun idle => congrArg Host.Outcome.next (expireTimer_of_not_due idle)⟩
    · rw [expires enabled due, action, timerAction]
    · rw [expires enabled due, action, timerAction, if_pos ((dqOpen_iff reloaded).2 room), heartbeat]
    · rw [expires enabled due, action, timerAction, if_neg (mt (dqOpen_iff reloaded).1 (Nat.not_lt.2 full))]
  · intro c digits v length good
    have valid_iff : (calendarOf ops).valid = true ↔ good := by
      rw [Calendar.valid_iff_fields, monthLength_eq]
      simp only [good, digits, List.forall_mem_cons, List.not_mem_nil, false_implies, implies_true]
      exact Iff.rfl
    exact ⟨fun bad => answers_of_refused (r := .setTime) takes manages ‹_› nofun (reqSetTime_invalid (mt valid_iff.1 bad) _),
      fun valid => answersOk_of_ok (r := .setTime) takes manages ‹_› nofun (reqSetTime_valid (valid_iff.2 valid) _)⟩
  · intro c preset bad
    have bad_iff : TimerBad ops ↔ bad := Iff.rfl
    have unlocked_here : s.gov.lock = false → (setReceiver .u .idle s).gov.lock = false := id
    refine ⟨fun locked => answers_locked (r := .writeTimer) (by decide) locked takes manages length, fun unlocked beyond => ?_,
      fun unlocked within wrong => ?_, fun unlocked good n names => ?_⟩
    · exact answers_of_refused (r := .writeTimer) takes manages length nofun (reqWriteTimer_beyond (unlocked_here unlocked) beyond)
    · exact answers_of_refused (r := .writeTimer) takes manages length nofun
        (reqWriteTimer_bad (n := ⟨_, Nat.lt_succ_of_le within⟩) (unlocked_here unlocked) rfl wrong)
    · intro old
      exact ⟨writtenTimer ops old, rfl, rfl, rfl, rfl, writtenCounter_eq _ _ _,
        answersOk_of_ok (r := .writeTimer) takes manages length nofun (reqWriteTimer_good (unlocked_here unlocked) names good)⟩

/-! ### The agent's checks -/

/-- A MGMT_REQ that fails one of the agent's checks is answered with its status alone (R163). -/
theorem exec_mgmtReq {s : State} {h : Header} {code rid : Byte} {ops : List Byte} (takes : s.TakesU) (short : ops.length ≤ 38) :
    exec (.mgmtReq h code rid ops) s = .next (takeMgmtReq h code rid ops (setReceiver .u .idle s)) :=
  congrArg Host.Outcome.next (receive_mgmtReq takes short)

theorem exec_mgmtReq_code (r : Request) (s : State) (h : Header) (rid : Byte) (ops : List Byte) :
    exec (r.command h rid ops) s = exec (.mgmtReq h r.code rid ops) s := exec_command r h rid ops s

theorem takeMgmtReq_denied {s : State} {h : Header} (denied : ¬s.Manages h) (code rid : Byte) (ops : List Byte) :
    takeMgmtReq h code rid ops s = respond h code rid (.refuse .denied s) false :=
  if_pos ((Bool.not_eq_true _).mp (mt (manages_iff s h).1 denied))

theorem takeMgmtReq_unknown {s : State} {h : Header} (manages : s.Manages h) {code : Byte} (unknown : ∀ r : Request, r.code ≠ code)
    (rid : Byte) (ops : List Byte) : takeMgmtReq h code rid ops s = respond h code rid (.refuse .unknown s) false := by
  rw [takeMgmtReq, if_neg (by rw [(manages_iff s h).2 manages]; nofun), Request.ofCode_none unknown]

theorem takeMgmtReq_misfit {s : State} {h : Header} (manages : s.Manages h) {r : Request} {ops : List Byte}
    (misfit : ops.length ≠ r.operandLength) (rid : Byte) :
    takeMgmtReq h r.code rid ops s = respond h r.code rid (.refuse .badValue s) false := by
  rw [takeMgmtReq, if_neg (by rw [(manages_iff s h).2 manages]; nofun), Request.ofCode_code]
  exact if_pos misfit

theorem manages_setReceiver {s : State} {h : Header} : (setReceiver .u .idle s).Manages h ↔ s.Manages h := Iff.rfl

/-- Settles O58: each check of the agent, in its order, on the arrival of the request. -/
theorem agentChecks : Obligations.AgentChecks := by
  unfold Obligations.AgentChecks
  refine ⟨fun r s h rid ops => ⟨_, rfl, exec_mgmtReq_code r s h rid ops⟩, fun r s h rid ops takes short => ⟨fun denied => ?_, fun manages misfit => ?_⟩,
    fun s h code rid ops takes short other => ⟨fun denied => ?_, fun manages => ?_⟩⟩
  · rw [Answers, exec_mgmtReq_code, exec_mgmtReq takes short, takeMgmtReq_denied (mt manages_setReceiver.1 denied)]
    rfl
  · rw [Answers, exec_mgmtReq_code, exec_mgmtReq takes short, takeMgmtReq_misfit (manages_setReceiver.2 manages) misfit]
    rfl
  · rw [Answers, exec_mgmtReq takes short, takeMgmtReq_denied (mt manages_setReceiver.1 denied)]
    rfl
  · rw [Answers, exec_mgmtReq takes short, takeMgmtReq_unknown (manages_setReceiver.2 manages) other]
    rfl

end Sys2Proof.Machine
end

section
/-! WRITE_WINDOW (R133 to R137), STOPn and TIMEOUT (R149, R150), flags and alerts (R153 to R157). -/

namespace Sys2Proof.Machine

/-! ### Patterns -/

theorem Pattern.valid_iff (p : Pattern) : p.valid = true ↔
    (p.minute = 0xFF ∨ bcdWithin 0 59 p.minute = true) ∧ (p.hour = 0xFF ∨ bcdWithin 0 23 p.hour = true) ∧
      (p.month = 0xFF ∨ bcdWithin 1 12 p.month = true) ∧
      (p.kind = 0x00 ∧ (p.value = 0xFF ∨ bcdWithin 1 31 p.value = true) ∨ p.kind = 0x01 ∧ 1 ≤ p.value.toNat ∧ p.value.toNat ≤ 0x7F) := by
  simp only [Pattern.valid, Bool.and_eq_true, Bool.or_eq_true, decide_eq_true_eq, and_assoc]
  refine and_congr Iff.rfl (and_congr Iff.rfl (and_congr Iff.rfl ?_))
  by_cases day : p.kind = 0x00
  · rw [if_pos day]
    simp [day]
  · rw [if_neg day]
    by_cases week : p.kind = 0x01
    · rw [if_pos week]
      simp [week]
    · rw [if_neg week]
      refine iff_of_false nofun ?_
      rintro (⟨zero, -⟩ | ⟨one, -⟩)
      · exact day zero
      · exact week one

/-- What a WRITE_WINDOW with in-use 01h refuses as BAD_VALUE (R136). -/
def WindowBad (ops : List Byte) (timeInvalid : Bool) : Prop :=
  ¬(patternAt ops 2).valid = true ∨ ¬(patternAt ops 7).valid = true ∨ patternAt ops 2 = patternAt ops 7 ∨
    1 < (byteAt ops 12).toNat ∨ byteAt ops 12 = 0x01 ∧ timeInvalid = true

theorem windowEntryOf_bad {ops : List Byte} {timeInvalid : Bool} (bad : WindowBad ops timeInvalid) :
    windowEntryOf ops timeInvalid = none := by
  unfold windowEntryOf
  by_cases large : 1 < (byteAt ops 12).toNat
  · rw [boolOf_eq_none large]
  · rw [boolOf_eq_some (Nat.not_lt.1 large)]
    refine if_neg ?_
    simp only [Bool.and_eq_true, Bool.not_eq_true', Bool.and_eq_false_iff, decide_eq_true_eq, decide_eq_false_iff_not]
    rintro ⟨⟨⟨opens, closes⟩, differ⟩, lawful⟩
    rcases bad with no | no | same | more | ⟨opened, invalid⟩
    · exact no opens
    · exact no closes
    · exact differ same
    · exact large more
    · rcases lawful with shut | valid
      · exact shut opened
      · rw [invalid] at valid; cases valid

theorem windowEntryOf_good {ops : List Byte} {timeInvalid : Bool} (good : ¬WindowBad ops timeInvalid) :
    windowEntryOf ops timeInvalid = some
      { inUse := true, openPattern := patternAt ops 2, closePattern := patternAt ops 7, isOpen := decide (byteAt ops 12 = 0x01) } := by
  simp only [WindowBad, not_or, not_not, not_and, Nat.not_lt] at good
  obtain ⟨opens, closes, differ, small, lawful⟩ := good
  unfold windowEntryOf
  rw [boolOf_eq_some small]
  refine if_pos ?_
  simp only [Bool.and_eq_true, Bool.not_eq_true', Bool.and_eq_false_iff, decide_eq_true_eq, decide_eq_false_iff_not]
  refine ⟨⟨⟨opens, closes⟩, differ⟩, ?_⟩
  by_cases opened : byteAt ops 12 = 0x01
  · exact .inr ((Bool.not_eq_true _).mp (lawful opened))
  · exact .inl opened

/-! ### WRITE_WINDOW -/

theorem changeWindow_keeps {w : Fin 16} {e : WindowEntry} {s : State} (same : e.isOpen = s.time.windows[w].isOpen) :
    changeWindow w e s = setWindow w e s := if_pos same

theorem changeWindow_opens {w : Fin 16} {e : WindowEntry} {s : State} (opens : e.isOpen = true)
    (shut : s.time.windows[w].isOpen = false) : changeWindow w e s = raise .window (setWindow w e s) := by
  unfold changeWindow
  dsimp only
  rw [if_neg (by rw [opens, shut]; nofun), if_pos opens]

theorem changeWindow_closes {w : Fin 16} {e : WindowEntry} {s : State} (closes : e.isOpen = false)
    (opened : s.time.windows[w].isOpen = true) :
    changeWindow w e s = withdrawForWindow w (raise .window (setWindow w e s)) := by
  unfold changeWindow
  dsimp only
  rw [if_neg (by rw [closes, opened]; nofun), if_neg (by rw [closes]; nofun)]

/-- What a WRITE_WINDOW refuses as BAD_VALUE (R136). -/
def WriteWindowBad (ops : List Byte) (timeInvalid : Bool) : Prop :=
  1 < (byteAt ops 1).toNat ∨ (byteAt ops 1).toNat = 1 ∧ WindowBad ops timeInvalid

/-- The entry a WRITE_WINDOW writes (R136, R137). -/
def writtenWindow (ops : List Byte) : WindowEntry :=
  if (byteAt ops 1).toNat = 1 then
    { inUse := true, openPattern := patternAt ops 2, closePattern := patternAt ops 7, isOpen := decide (byteAt ops 12 = 0x01) }
  else .unused

theorem reqWriteWindow_beyond {s : State} {ops : List Byte} (unlocked : s.gov.lock = false) (beyond : 15 < (byteAt ops 0).toNat) :
    reqWriteWindow ops s = .refuse .badIndex s := by
  rw [reqWriteWindow, if_neg (by rw [unlocked]; nofun), windowOf_eq_none beyond]

theorem byte_eq_one_iff (b : Byte) : b = 1 ↔ b.toNat = 1 := by
  rw [← BitVec.toNat_inj]; rfl

theorem reqWriteWindow_bad {s : State} {ops : List Byte} {w : Fin 16} (unlocked : s.gov.lock = false)
    (names : (byteAt ops 0).toNat = w.val) (bad : WriteWindowBad ops s.time.timeInvalid) :
    reqWriteWindow ops s = .refuse .badValue s := by
  rw [reqWriteWindow, if_neg (by rw [unlocked]; nofun), windowOf_eq_some names]
  dsimp only
  rcases bad with large | ⟨used, bad⟩
  · rw [boolOf_eq_none large]
  · rw [boolOf_eq_some (Nat.le_of_eq used), decide_eq_true ((byte_eq_one_iff _).2 used), windowEntryOf_bad bad]

theorem reqWriteWindow_good {s : State} {ops : List Byte} {w : Fin 16} (unlocked : s.gov.lock = false)
    (names : (byteAt ops 0).toNat = w.val) (good : ¬WriteWindowBad ops s.time.timeInvalid) :
    reqWriteWindow ops s = .ok (changeWindow w (writtenWindow ops) s) := by
  rw [WriteWindowBad, not_or, Nat.not_lt, not_and] at good
  obtain ⟨small, good⟩ := good
  rw [reqWriteWindow, if_neg (by rw [unlocked]; nofun), windowOf_eq_some names, boolOf_eq_some small, writtenWindow]
  dsimp only
  by_cases used : (byteAt ops 1).toNat = 1
  · rw [decide_eq_true ((byte_eq_one_iff _).2 used), windowEntryOf_good (good used), if_pos used]
  · rw [decide_eq_false (mt (byte_eq_one_iff _).1 used), if_neg used]

/-- Settles O49: the tests of R133 and R136 give the entry or the refusal; the entry is written with the effects of R135. -/
theorem writeWindowJudged : Obligations.WriteWindowJudged := by
  unfold Obligations.WriteWindowJudged
  intro s h rid ops takes manages length c use opening five digits allowed bad
  have allowed_iff : ∀ i, (patternAt ops i).valid = true ↔ allowed (five i) := fun i => by
    rw [Pattern.valid_iff]
    simp only [bcdWithin_iff, and_assoc]
    exact Iff.rfl
  have bad_iff : WriteWindowBad ops s.time.timeInvalid ↔ bad := by
    rw [WriteWindowBad, WindowBad, allowed_iff, allowed_iff]
    exact Iff.rfl
  have unlocked_here : s.gov.lock = false → (setReceiver .u .idle s).gov.lock = false := id
  refine ⟨fun locked => answers_locked (r := .writeWindow) (by decide) locked takes manages length, fun unlocked beyond => ?_,
    fun unlocked within wrong => ?_, fun unlocked good w names => ?_⟩
  · exact answers_of_refused (r := .writeWindow) takes manages length nofun (reqWriteWindow_beyond (unlocked_here unlocked) beyond)
  · exact answers_of_refused (r := .writeWindow) takes manages length nofun
      (reqWriteWindow_bad (w := ⟨_, Nat.lt_succ_of_le within⟩) (unlocked_here unlocked) rfl (bad_iff.2 wrong))
  · intro e t zones
    have entry : e = writtenWindow ops := rfl
    have written := fun u (changed : changeWindow w (writtenWindow ops) (setReceiver .u .idle s) = u) =>
      answersOk_of_ok (rid := rid) (r := .writeWindow) takes manages length nofun
        ((reqWriteWindow_good (unlocked_here unlocked) names (mt bad_iff.1 good)).trans (congrArg Answer.ok changed))
    exact ⟨fun same => written _ (changeWindow_keeps same), fun opens shut => written _ (changeWindow_opens opens shut),
      fun closes opened => written _ (changeWindow_closes (s := setReceiver .u .idle s) closes opened)⟩

/-! ### STOPn and TIMEOUT -/

theorem assertStopn_released {s : State} (released : s.gov.stopn = false) :
    assertStopn s = takeStop { s with gov := { s.gov with stopn := true, stopnCount := 0 } } := if_neg (by rw [released]; nofun)

theorem takeStop_standby {s : State} (state : s.gov.state = .standby) : takeStop s = s := by rw [takeStop, state]

theorem takeStop_governing {s : State} (state : s.gov.state = .governing) : takeStop s = haltEntry (raise .stop s) := by
  rw [takeStop, state]

theorem takeStop_halted {s : State} (state : s.gov.state = .halted) : takeStop s = raise .stop s := by rw [takeStop, state]

theorem expireDeadline_of_due {s : State} {c : Carriage} {r : InFlight} (moving : (s.ctx c).state = .moving)
    (record : (s.ctx c).inFlight = some r) (sent : r.sent = true) (due : r.deadline = some 1) :
    expireDeadline c s = takeCause .timeout (setCtx c
      { s.ctx c with
        state := .faulted, faultCause := some .timeout, reported := none, inFlight := some { r with deadline := none } } s) := by
  unfold expireDeadline
  dsimp only
  rw [record]
  exact if_pos (by rw [Bool.and_eq_true, Bool.and_eq_true, decide_eq_true_iff, decide_eq_true_iff]; exact ⟨⟨moving, sent⟩, due⟩)

theorem expireDeadline_of_not_due {s : State} {c : Carriage} {r : InFlight} (record : (s.ctx c).inFlight = some r)
    (early : r.sent = false ∨ r.deadline ≠ some 1) : expireDeadline c s = s := by
  unfold expireDeadline
  dsimp only
  rw [record]
  refine if_neg ?_
  rw [Bool.and_eq_true, Bool.and_eq_true, decide_eq_true_iff, decide_eq_true_iff]
  rintro ⟨⟨-, sent⟩, due⟩
  rcases early with unsent | other
  · rw [unsent] at sent; cases sent
  · exact other due

/-- Settles O51: STOPn by the governor's state; the expiry of a sent move's deadline is the TIMEOUT cause on the faulted
carriage. -/
theorem stopnAndTimeoutCauses : Obligations.StopnAndTimeoutCauses := by
  unfold Obligations.StopnAndTimeoutCauses
  refine ⟨fun s => ?_, fun s c r moving record => ?_⟩
  · intro asserted
    have asserts : s.gov.stopn = false → exec .stopnAssertion s = .next (takeStop asserted) :=
      fun released => congrArg Host.Outcome.next (assertStopn_released released)
    refine ⟨fun released => ⟨fun state => ?_, fun state => ?_, fun state => ?_⟩,
      fun low => congrArg Host.Outcome.next (if_pos low)⟩
    · rw [asserts released, takeStop_standby (s := asserted) state]
    · rw [asserts released, takeStop_governing (s := asserted) state]
    · rw [asserts released, takeStop_halted (s := asserted) state]
  · intro t
    refine ⟨fun sent due => ?_, fun early => congrArg Host.Outcome.next (expireDeadline_of_not_due record early)⟩
    have expires := expireDeadline_of_due moving record sent due
    exact ⟨fun off => congrArg Host.Outcome.next (expires.trans (takeCause_raises (k := .timeout) off)),
      fun governing enabled => congrArg Host.Outcome.next (expires.trans (takeCause_halts (k := .timeout) governing enabled))⟩

/-! ### Flags -/

theorem Flag.bit_lt (f : Flag) : f.bit < 12 := by
  cases f with
  | cycle n => exact Nat.add_lt_add_left n.isLt 8
  | _ => exact Nat.lt_of_sub_pos (by decide)

/-- The flag at a bit position (R153). -/
def Flag.ofBit : Nat → Flag
  | 0 => .stop
  | 1 => .edge
  | 2 => .contact
  | 3 => .timeout
  | 4 => .stray
  | 5 => .holdx
  | 6 => .linkerr
  | 7 => .window
  | n + 8 => .cycle (Fin.ofNat 4 n)

theorem Flag.ofBit_bit (f : Flag) : Flag.ofBit f.bit = f := by
  cases f with
  | cycle n =>
    rw [Flag.bit, Nat.add_comm]
    exact congrArg Flag.cycle (Fin.ext (Nat.mod_eq_of_lt n.isLt))
  | _ => rfl

theorem Flag.bit_inj {f f' : Flag} : f.bit = f'.bit ↔ f = f' :=
  ⟨fun same => by rw [← Flag.ofBit_bit f, same, Flag.ofBit_bit], congrArg Flag.bit⟩

/-- Raising a flag sets that flag and no other (R153). -/
theorem Governor.flag_raise (g : Governor) (f f' : Flag) : (g.raise f).flag f' = (g.flag f' || decide (f' = f)) := by
  show (g.flags ||| BitVec.twoPow 12 f.bit).getLsbD f'.bit = _
  rw [BitVec.getLsbD_or, BitVec.getLsbD_twoPow, decide_eq_true f.bit_lt, Bool.true_and, Governor.flag]
  exact congrArg _ (decide_eq_decide.2 (Flag.bit_inj.trans eq_comm))

theorem Governor.pulses_raise (g : Governor) (f : Flag) : (g.raise f).pulses = match f.pulse with
    | none => g.pulses
    | some p => if g.alertEnabled f then g.pulses.set p.val 8 else g.pulses := rfl

theorem levelTypeMask_bit (i : Fin 12) : levelTypeMask.getLsbD i.val = decide (i.val < 7) := by
  revert i; decide

/-- Some level-type flag has its alert enable (R155). -/
theorem levelTypes_ne_zero_iff (flags enables : BitVec 12) : flags &&& enables &&& levelTypeMask ≠ 0 ↔
    ∃ i : Fin 7, flags.getLsbD i.val = true ∧ enables.getLsbD i.val = true := by
  have bits : ∀ i : Fin 12, (flags &&& enables &&& levelTypeMask).getLsbD i.val =
      ((flags.getLsbD i.val && enables.getLsbD i.val) && decide (i.val < 7)) := fun i => by
    rw [BitVec.getLsbD_and, BitVec.getLsbD_and, levelTypeMask_bit]
  constructor
  · intro some_bit
    by_contra no_flag
    refine some_bit (BitVec.eq_of_getLsbD_eq fun i lt => ?_)
    show _ = (0#12).getLsbD i
    rw [bits ⟨i, lt⟩, BitVec.getLsbD_zero, Bool.and_eq_false_iff, Bool.and_eq_false_iff, decide_eq_false_iff_not]
    by_contra holds
    simp only [not_or, Bool.not_eq_false, not_not] at holds
    obtain ⟨⟨set, enabled⟩, low⟩ := holds
    exact no_flag ⟨⟨i, low⟩, set, enabled⟩
  · rintro ⟨i, set, enabled⟩ none
    have bit := bits (i.castLE (by decide))
    rw [none] at bit
    simp [set, enabled] at bit

theorem Governor.alertLow_iff (g : Governor) : g.alertLow = true ↔
    (∃ i : Fin 7, g.flags.getLsbD i.val = true ∧ g.alertEnables.getLsbD i.val = true) ∨ ∃ p : Fin 5, 0 < g.pulses[p] := by
  rw [Governor.alertLow, Bool.or_eq_true, decide_eq_true_iff, levelTypes_ne_zero_iff, List.any_eq_true]
  refine or_congr Iff.rfl ⟨fun ⟨n, mem, runs⟩ => ?_, fun ⟨p, runs⟩ => ⟨g.pulses[p], by simp, by simpa using runs⟩⟩
  obtain ⟨i, lt, at_i⟩ := Vector.mem_iff_getElem.1 (Vector.mem_toList_iff.1 mem)
  exact ⟨⟨i, lt⟩, by simpa [at_i] using runs⟩

/-! ### The operands of CLEAR_FLAGS and SET_ALERT -/

theorem highNibble_eq_zero_iff : ∀ b : Byte, b &&& 0xF0 = 0 ↔ b.toNat < 16 := by decide

theorem append_zero_eq_zero_iff : ∀ b : Byte, b ++ (0x00 : Byte) = (0x0000 : BitVec 16) ↔ b = 0 := by decide

theorem word_highNibble_eq_zero_iff (b0 b1 : Byte) : (b0 ++ b1 : BitVec 16) &&& 0xF000 = 0 ↔ b0.toNat < 16 := by
  rw [show (0xF000 : BitVec 16) = (0xF0 : Byte) ++ (0x00 : Byte) from rfl, BitVec.and_append, ← highNibble_eq_zero_iff,
    ← append_zero_eq_zero_iff, show b1 &&& (0x00 : Byte) = 0x00 from BitVec.and_zero]

theorem reqSetAlert_eq {s : State} (unlocked : s.gov.lock = false) (b0 b1 b2 : Byte) : reqSetAlert [b0, b1, b2] s =
    if 16 ≤ b0.toNat ∨ 16 ≤ b2.toNat then .refuse .badValue s
    else .ok { s with gov := s.gov.writeEnables ((b0 ++ b1 : BitVec 16).setWidth 12) (b2.setWidth 4) } := by
  rw [reqSetAlert, if_neg (by rw [unlocked]; nofun)]
  refine if_congr ?_ rfl rfl
  show (decide ((b0 ++ b1 : BitVec 16) &&& 0xF000 ≠ 0) || decide (b2 &&& 0xF0 ≠ 0)) = true ↔ _
  rw [Bool.or_eq_true, decide_eq_true_iff, decide_eq_true_iff, ne_eq, ne_eq, word_highNibble_eq_zero_iff, highNibble_eq_zero_iff,
    Nat.not_lt, Nat.not_lt]

/-- Settles O52: the places of the flags and pulses, ALERTn bit by bit, and the two requests on their operands. -/
theorem flagsAndAlerts : Obligations.FlagsAndAlerts := by
  unfold Obligations.FlagsAndAlerts
  refine ⟨?_, ⟨Governor.flag_raise, fun g f p pulse enabled => ?_, fun g f off => ?_, Governor.alertLow_iff, fun s p due =>
    congrArg Host.Outcome.next (if_pos due)⟩, fun s h rid b0 b1 takes manages => ?_, fun s h rid b0 b1 b2 takes manages => ?_⟩
  · intro bit
    have places : ∀ f : Flag, f.bit = bit f := fun f => by cases f <;> rfl
    refine ⟨fun g f => ⟨by rw [Governor.flag, places], by rw [Governor.alertEnabled, places]⟩, fun f => ?_, fun s f => rfl⟩
    cases f with
    | cycle n => exact congrArg some (Fin.ext (Nat.add_comm 1 n.val))
    | _ => rfl
  · rw [Governor.pulses_raise, pulse]
    exact if_pos enabled
  · rw [Governor.pulses_raise]
    cases pulse : f.pulse with
    | none => rfl
    | some p =>
      rcases off with none | off
      · rw [pulse] at none; cases none
      · exact if_neg (by rw [off]; nofun)
  · refine ⟨s.gov.flags &&& ~~~((b0 ++ b1 : BitVec 16).setWidth 12), fun i => ?_,
      answersOk_of_ok (r := .clearFlags) takes manages rfl nofun rfl⟩
    rw [BitVec.getLsbD_and, BitVec.getLsbD_not, BitVec.getLsbD_setWidth, decide_eq_true i.isLt, Bool.true_and, Bool.true_and]
  · intro c bad
    refine ⟨fun locked => answers_locked (r := .setAlert) (by decide) locked takes manages rfl, fun unlocked wrong => ?_,
      fun unlocked good => ?_⟩
    · exact answers_of_refused (r := .setAlert) takes manages rfl nofun ((reqSetAlert_eq (s := setReceiver .u .idle s) unlocked b0 b1 b2).trans (if_pos wrong))
    · refine ⟨_, fun p => ?_, answersOk_of_ok (r := .setAlert) takes manages rfl nofun
        ((reqSetAlert_eq (s := setReceiver .u .idle s) unlocked b0 b1 b2).trans (if_neg good))⟩
      rw [Fin.getElem_fin, Vector.getElem_ofFn, BitVec.getLsbD_setWidth, decide_eq_true (by omega), Bool.true_and]
      rfl

end Sys2Proof.Machine
end

section
/-! Halt entries (R18, R78, R152) and the governor requests (R112, R118, R145 to R148). -/

namespace Sys2Proof.Machine

/-! ### Halt entries -/

theorem Link.unsent_eq (l : Link) : l.unsent = if l.txD = .frame then l.dq.drop 1 else l.dq := by
  rw [Link.unsent, List.drop_one]

theorem Link.kept_eq (l : Link) : l.kept = (if l.txD = .frame then l.dq.take 1 else []) ++
    (if l.txD = .frame then l.dq.drop 1 else l.dq).filter (fun f => !f.isDriveMove) := by rw [Link.kept, Link.unsent_eq]

theorem haltEntry_of_purge {s : State} (some_move : s.link.purged ≠ []) :
    haltEntry s = evalPauses (servePending (s.link.purged.foldl undoPurged (haltAndPurge s))) := by
  unfold haltEntry
  dsimp only
  rw [List.isEmpty_eq_false_iff.2 some_move]
  rfl

theorem isDriveMove_eq : DFrame.isDriveMove = fun f => match f with
    | .driveMove _ _ _ => true
    | _ => false := by
  funext f
  cases f <;> rfl

/-- Settles O50: a halt entry is its first three steps, the undos, the pending zones and the pause states; outside GOVERNING
none of them moves the pool, the wait lists or DQ. -/
theorem haltEntryHolds : Obligations.HaltEntry := by
  unfold Obligations.HaltEntry
  refine ⟨fun s => ?_, fun s h p v r => ?_⟩
  · intro t sending
    have calm : Calm (haltAndPurge s) t := calm_haltEntry s
    refine ⟨calm.sameGov, ?_, (calm_txD calm).trans rfl, calm.sameDq.trans (Link.kept_eq s.link), calm.toTraffic.uq_prefix, calm.pool, calm.waits,
      calm.time, calm.table, calm.sources, ?_⟩
    · obtain ⟨_, _, _, _, link⟩ := calm.link
      rw [link]
      rfl
    · intro isMove unsent halted undone
      have unsent_eq : s.link.unsent = unsent := Link.unsent_eq s.link
      have move_eq : DFrame.isDriveMove = isMove := isDriveMove_eq
      have purged_eq : s.link.purged = unsent.filter isMove := by rw [Link.purged, unsent_eq, move_eq]
      have halted_eq : haltAndPurge s = halted := by
        rw [haltAndPurge, Link.kept_eq, move_eq]
      have undone_eq : s.link.purged.foldl undoPurged (haltAndPurge s) = undone := by rw [purged_eq, halted_eq]
      refine ⟨fun none => haltEntry_of_nothingToPurge (purged_eq.trans none), fun some_move => ?_⟩
      rw [← servePending_eq, ← undone_eq]
      exact haltEntry_of_purge (by rw [purged_eq]; exact some_move)
  · intro x parked record moving flight source sequence
    have undone := undoPurged_of_record p v (movingRecord_of_moving moving flight source sequence)
    refine ⟨fun entry => ?_, fun stay => ?_⟩
    · rw [undone, if_pos entry]
      rfl
    · rw [undone, if_neg (by rw [stay]; nofun)]
      rfl

/-! ### The governor requests -/

theorem clearFlags_all (g : Governor) : g.clearFlags 0xFFF = { g with flags := 0 } := by
  rw [Governor.clearFlags, show ~~~(0xFFF : BitVec 12) = 0#12 from rfl, BitVec.and_zero]
  rfl

theorem clearFlags_haltCauses (g : Governor) : g.clearFlags haltCauseMask = { g with flags := g.flags &&& 0xFE0 } := rfl

theorem reqStart_refused {s : State} (other : s.gov.state ≠ .standby ∨ s.table.floorValid = false ∨ s.gov.stopn = true) (ops : List Byte) :
    reqStart ops s = .refuse .state s := by
  refine if_pos ?_
  rw [Bool.or_eq_true, Bool.or_eq_true, decide_eq_true_iff, Bool.not_eq_true', or_assoc]
  exact other

theorem reqStart_taken {s : State} (standby : s.gov.state = .standby) (floor : s.table.floorValid = true)
    (released : s.gov.stopn = false) (ops : List Byte) :
    reqStart ops s = .ok (servePending { s with gov := { s.gov with state := .governing, flags := 0 } }) := by
  rw [reqStart, if_neg (by rw [standby, floor, released]; nofun), clearFlags_all]
  rfl

theorem reqStop_taken {s : State} (other : s.gov.state ≠ .standby) (ops : List Byte) : reqStop ops s = .ok (takeStop s) := if_neg other

theorem reqResume_refused {s : State} (other : s.gov.state ≠ .halted ∨ s.gov.stopn = true) (ops : List Byte) :
    reqResume ops s = .refuse .state s := by
  refine if_pos ?_
  rw [Bool.or_eq_true, decide_eq_true_iff]
  exact other

theorem reqResume_taken {s : State} (halted : s.gov.state = .halted) (released : s.gov.stopn = false) (ops : List Byte) :
    reqResume ops s =
      .ok (servePending { s with gov := { s.gov with state := .governing, flags := s.gov.flags &&& 0xFE0 } }) := by
  rw [reqResume, if_neg (by rw [halted, released]; nofun), clearFlags_haltCauses]
  rfl

theorem anyMoving_iff (s : State) : s.anyMoving = true ↔ ∃ c, (s.ctx c).state = .moving := by
  rw [State.anyMoving, any_carriages]
  simp only [decide_eq_true_eq]

theorem reqEnd_busy {s : State} (other : s.gov.state ≠ .standby) (moving : ∃ c, (s.ctx c).state = .moving) (ops : List Byte) :
    reqEnd ops s = .refuse .busy s := by
  rw [reqEnd, if_neg other, if_pos ((anyMoving_iff s).2 moving)]

/-- Every held move withdrawn with reason END, by zone (R118). -/
def withdrawAll (s : State) : State :=
  (List.finRange 64).foldl (fun u (z : ZoneIndex) => (u.occ.waits[z]).foldl (fun u e => endHold .withdrawn .end_ e u) u) s

theorem withdrawAll_eq (s : State) : (List.finRange 64).foldl (withdrawZone .end_) s = withdrawAll s := by
  rw [withdrawAll]
  exact congrArg (List.foldl · s (List.finRange 64)) (funext fun _ => funext fun _ => rfl)

theorem reqEnd_taken {s : State} (other : s.gov.state ≠ .standby) (idle : ∀ c, (s.ctx c).state ≠ .moving) (ops : List Byte) :
    reqEnd ops s = .ok { withdrawAll s with gov := { (withdrawAll s).gov with state := .standby } } := by
  have none : ¬s.anyMoving = true := fun some_moving => by
    obtain ⟨c, moving⟩ := (anyMoving_iff s).1 some_moving
    exact idle c moving
  rw [reqEnd, if_neg other, if_neg none, withdrawAll_eq]

theorem withdrawAll_of_empty {s : State} (empty : ∀ z : ZoneIndex, s.occ.waits[z] = []) : withdrawAll s = s := by
  unfold withdrawAll
  induction List.finRange 64 with
  | nil => rfl
  | cons z l ih => rw [List.foldl_cons, empty z]; exact ih

/-! ### What an END leaves -/

/-- What a withdrawal with reason END may have changed of `s`: held moves ended, their carriages parked (R118). -/
structure EndedFrom (s u : State) : Prop where
  books : u.BooksAgree
  claims : u.occ.claims = s.occ.claims
  states : ∀ c, (u.ctx c).state = (s.ctx c).state ∨ (s.ctx c).state = .held ∧ (u.ctx c).state = .parked

theorem EndedFrom.refl {s : State} (books : s.BooksAgree) : EndedFrom s s := ⟨books, rfl, fun _ => .inl rfl⟩

theorem EndedFrom.endHold {s u : State} (v : Verdict) (r : Reason) (e : Fin 16) (ended : EndedFrom s u) :
    EndedFrom s (endHold v r e u) := by
  cases used : u.occ.pool[e] with
  | none => unfold Machine.endHold; rw [used]; exact ended
  | some h =>
    have same := sameBooks_endHold v r used
    refine ⟨fineBooks.endHold v r e ended.books, same.claims.trans ended.claims, fun c => ?_⟩
    rw [(same.ctx c).state, ctx_unhold]
    split
    next own =>
      subst own
      obtain ⟨-, held, -, -⟩ := ended.books.entries e h used
      rcases ended.states h.carriage with kept | ⟨was, -⟩
      · exact .inr ⟨kept.symm.trans held, rfl⟩
      · exact .inr ⟨was, rfl⟩
    next => exact ended.states c

theorem EndedFrom.withdrawAll {s u : State} (ended : EndedFrom s u) : EndedFrom s (withdrawAll u) :=
  KeptWhole.foldl (P := EndedFrom s) (fun _ _ hs => KeptWhole.foldl (P := EndedFrom s) (fun _ e hs => hs.endHold _ _ e) _ hs) _ ended

/-- After every held move is withdrawn no zone has a waiter and no entry of the pool is in use (R118). -/
theorem withdrawAll_leaves_none {s : State} (books : s.BooksAgree) :
    (∀ z : ZoneIndex, (withdrawAll s).occ.waits[z] = []) ∧ (∀ e : Fin 16, (withdrawAll s).occ.pool[e] = none) ∧
      (withdrawAll s).occ.claims = s.occ.claims ∧
      ∀ c, ((withdrawAll s).ctx c).state = if (s.ctx c).state = .held then .parked else (s.ctx c).state := by
  have ended := (EndedFrom.refl books).withdrawAll
  have empty : ∀ z : ZoneIndex, (withdrawAll s).occ.waits[z] = [] := fun z => by
    rw [← withdrawAll_eq]
    exact fineBooks.withdrawAll_waits .end_ (List.finRange 64) books z (.inl (List.mem_finRange z))
  refine ⟨empty, fun e => ?_, ended.claims, fun c => ?_⟩
  · cases used : (withdrawAll s).occ.pool[e] with
    | none => rfl
    | some h =>
      have listed := (ended.books.entries e h used).1
      rw [empty] at listed
      cases listed
  · have unheld := ended.books.noneHeld empty c
    rcases ended.states c with kept | ⟨held, parked⟩
    · rw [if_neg (by rw [← kept]; exact unheld), kept]
    · rw [if_pos held, parked]

/-- Settles O54: the requests by their tests; an END that is taken withdraws zone by zone on agreeing books. -/
theorem governorRequests : Obligations.GovernorRequests := by
  unfold Obligations.GovernorRequests
  refine ⟨fun s h rid takes manages => ?_, fun s h rid takes manages books other idle => ?_⟩
  · intro t served
    have served_eq : ∀ u, servePending u = served u := servePending_eq
    refine ⟨fun other => ?_, fun standby floor released => ?_, fun standby => ?_, fun governing => ?_, fun halted => ?_, fun other => ?_,
      fun halted released => ?_, fun standby => ?_, fun other moving => ?_, fun other idle empty => ?_, fun other idle => ?_⟩
    · exact answers_of_refused (r := .start) takes manages rfl nofun (reqStart_refused (s := t) other [])
    · rw [← served_eq]
      exact answersOk_of_ok (r := .start) takes manages rfl nofun (reqStart_taken (s := t) standby floor released [])
    · exact answers_of_refused (r := .stop) takes manages rfl nofun (if_pos standby)
    · exact answersOk_of_ok (r := .stop) takes manages rfl nofun
        ((reqStop_taken (s := t) (ne_of_eq_of_ne governing nofun) []).trans (congrArg Answer.ok (takeStop_governing (s := t) governing)))
    · exact answersOk_of_ok (r := .stop) takes manages rfl nofun
        ((reqStop_taken (s := t) (ne_of_eq_of_ne halted nofun) []).trans (congrArg Answer.ok (takeStop_halted (s := t) halted)))
    · exact answers_of_refused (r := .resume) takes manages rfl nofun (reqResume_refused (s := t) other [])
    · rw [← served_eq]
      exact answersOk_of_ok (r := .resume) takes manages rfl nofun (reqResume_taken (s := t) halted released [])
    · exact answers_of_refused (r := .end_) takes manages rfl nofun (if_pos standby)
    · exact answers_of_refused (r := .end_) takes manages rfl nofun (reqEnd_busy (s := t) other moving [])
    · have taken := reqEnd_taken (s := t) other idle []
      rw [withdrawAll_of_empty (s := t) empty] at taken
      exact answersOk_of_ok (r := .end_) takes manages rfl nofun taken
    · intro withdrawn
      have taken := reqEnd_taken (s := t) other idle []
      have same : withdrawAll t = withdrawn := by unfold withdrawAll; rfl
      clear_value withdrawn
      rw [same] at taken
      exact answersOk_of_ok (r := .end_) takes manages rfl nofun taken
  · have answered := answersOk_of_ok (rid := rid) (ops := []) (r := .end_) takes manages rfl nofun
      (reqEnd_taken (s := setReceiver .u .idle s) other idle [])
    have received : (setReceiver .u .idle s).BooksAgree :=
      fineBooks.alike s (setReceiver .u .idle s) (.of_fields rfl rfl rfl rfl rfl rfl) books
    obtain ⟨empty, free, claims, states⟩ := withdrawAll_leaves_none received
    generalize withdrawAll (setReceiver .u .idle s) = u at answered empty free claims states
    refine ⟨_, answered, ?_, fun z => ?_, fun e => ?_, ?_, fun c => ?_⟩
    · rw [(calm_pushUq _ _).sameGov]
    · rw [(calm_pushUq _ _).waits]; exact empty z
    · rw [(calm_pushUq _ _).pool]; exact free e
    · rw [pushUq, pushUqMarked, evalPauses_occ]; exact claims
    · rw [ctx_pushUq]; exact states c

end Sys2Proof.Machine
end

section
/-! The reads of the state (R52, R63 to R65, R122, R123, R158, R167): what each read answers, as the bytes the manual lists. -/

namespace Sys2Proof.Machine

/-! ### Counts and bits -/

theorem Occupancy.inUse_eq (o : Occupancy) : o.inUse = (List.finRange 16).countP fun e => (o.pool[e]).isSome := by
  have listed : o.pool.toList = (List.finRange 16).map fun e => o.pool[e] := by
    apply List.ext_getElem <;> simp
  rw [Occupancy.inUse, listed, List.countP_map]
  rfl

theorem add_bit (b : Prop) [Decidable b] (n k : Nat) : (if b then n + k else n) = n + if decide b = true then k else 0 := by
  by_cases holds : b
  · simp [holds]
  · simp [holds]

/-- The running pulses, bit by bit (R158). -/
theorem Governor.pulseBits_eq (g : Governor) (bit : Bool → Nat → Nat) (bits : ∀ b n, bit b n = if b then n else 0) : g.pulseBits =
    bit (decide (0 < g.pulses[(0 : Fin 5)])) 1 + bit (decide (0 < g.pulses[(1 : Fin 5)])) 2 +
      bit (decide (0 < g.pulses[(2 : Fin 5)])) 4 + bit (decide (0 < g.pulses[(3 : Fin 5)])) 8 +
      bit (decide (0 < g.pulses[(4 : Fin 5)])) 16 := by
  rw [Governor.pulseBits, show List.finRange 5 = [0, 1, 2, 3, 4] from rfl]
  simp only [List.foldl_cons, List.foldl_nil, add_bit, bits, Nat.zero_add]
  rfl

/-! ### Zones -/

theorem descriptor_castSucc (s : State) (i : ZoneIndex) : s.descriptor i.castSucc = s.table.descriptors[i] := dif_pos i.isLt

theorem policyByte_eq (p : SpeedPolicy) : (if p = .clip then 0x00 else 0x01 : Byte) = match p with
    | .clip => 0x00
    | .refuse => 0x01 := by cases p <;> rfl

theorem windowByte_eq (w : Option (Fin 16)) : windowByte w = match w with
    | none => 0xFF
    | some w => BitVec.ofNat 8 w.val := by cases w <;> rfl

/-- The bytes of a place (R52). -/
theorem descriptorBytes_place (p : Place) : descriptorBytes (.place p) = (if p.guarded then (0x02 : Byte) else 0x01) ::
    (coordBytes p.box.x0 ++ coordBytes p.box.y0 ++ coordBytes p.box.x1 ++ coordBytes p.box.y1 ++
      [BitVec.ofNat 8 p.guardLevel.val, BitVec.ofNat 8 p.capacity] ++ wordBytes p.speedLimit ++
      [match p.policy with | .clip => 0x00 | .refuse => 0x01, BitVec.ofNat 8 p.holdLimit,
       match p.window with | none => 0xFF | some w => BitVec.ofNat 8 w.val]) := by
  rw [descriptorBytes, policyByte_eq, windowByte_eq]
  rfl

theorem reqReadZone_named {b : Byte} {z : Zone} (names : b.toNat = z.val) (s : State) :
    reqReadZone [b] s = .read (b :: descriptorBytes (s.descriptor z)) s := by
  have index : byteOf z.val = b := by rw [← names, byteOf, BitVec.ofNat_toNat, BitVec.setWidth_eq]
  rw [reqReadZone, byteAt_singleton_zero, zoneOf_eq_some names]
  dsimp only
  rw [index]

theorem reqReadZone_beyond {b : Byte} (beyond : 64 < b.toNat) (s : State) : reqReadZone [b] s = .refuse .badIndex s := by
  rw [reqReadZone, byteAt_singleton_zero, zoneOf_eq_none beyond]

/-! ### Carriages -/

/-- Two bytes of the portal stack, counted from the bottom (R63). -/
def stackLevel (records : List StackRecord) (i : Nat) : List Byte :=
  match records[i]? with
  | some r => [BitVec.ofNat 8 r.saved.val, BitVec.ofNat 8 r.portal.val]
  | none => [0x00, 0x00]

theorem stackBytes_eq (stack : List StackRecord) : stackBytes stack =
    stackLevel stack.reverse 0 ++ stackLevel stack.reverse 1 ++ stackLevel stack.reverse 2 ++ stackLevel stack.reverse 3 := by
  unfold stackBytes
  generalize stack.reverse = records
  match records with
  | [] => rfl
  | [_] => rfl
  | [_, _] => rfl
  | [_, _, _] => rfl
  | _ :: _ :: _ :: _ :: _ => rfl

theorem CarriageState.code_eq (c : CarriageState) : c.code = match c with
    | .unenrolled => 0x00
    | .parked => 0x01
    | .moving => 0x02
    | .held => 0x03
    | .faulted => 0x04 := by cases c <;> rfl

theorem faultByte_eq (f : Option FaultCause) : faultByte f = match f with
    | none => 0x00
    | some .timeout => 0x01
    | some .stray => 0x02 := by
  match f with
  | none => rfl
  | some .timeout => rfl
  | some .stray => rfl

/-- Part 0 of a context (R63). -/
theorem Context.part0_eq (x : Context) : x.part0 =
    [match x.state with | .unenrolled => (0x00 : Byte) | .parked => 0x01 | .moving => 0x02 | .held => 0x03 | .faulted => 0x04] ++
      (coordBytes x.position.x ++ coordBytes x.position.y) ++
      [BitVec.ofNat 8 x.zone.val, BitVec.ofNat 8 x.clearance.val, BitVec.ofNat 8 x.stack.length] ++
      (stackLevel x.stack.reverse 0 ++ stackLevel x.stack.reverse 1 ++ stackLevel x.stack.reverse 2 ++ stackLevel x.stack.reverse 3) ++
      [x.scale, BitVec.ofNat 8 x.turn.val] ++ (coordBytes x.offset.x ++ coordBytes x.offset.y) ++
      [x.tag.setWidth 8, BitVec.ofNat 8 x.moveLimit, if x.verdictOwed then 0x01 else 0x00,
       match x.holdRef with | none => 0xFF | some e => BitVec.ofNat 8 e.val,
       match x.faultCause with | none => 0x00 | some .timeout => 0x01 | some .stray => 0x02] := by
  rw [Context.part0, CarriageState.code_eq, stackBytes_eq, faultByte_eq]
  cases x.holdRef <;> rfl

/-- An in-flight record of part 1 (R64). -/
theorem inFlightBytes_some (r : InFlight) : inFlightBytes (some r) =
    [0x01, BitVec.ofNat 8 r.source.val, r.sequence, BitVec.ofNat 8 r.level.val] ++
      (coordBytes r.target.x ++ coordBytes r.target.y) ++
      [BitVec.ofNat 8 r.targetZone.val, BitVec.ofNat 8 r.originZone.val, if r.entry then 0x01 else 0x00, BitVec.ofNat 8 r.pops] ++
      (match r.push with | none => [0x00, 0x00, 0x00] | some q => [0x01, BitVec.ofNat 8 q.saved.val, BitVec.ofNat 8 q.portal.val]) ++
      (match r.deadline with | none => [0x00, 0x00] | some n => [0x01, BitVec.ofNat 8 n]) ++
      [if r.sent then 0x01 else 0x00] := by
  rw [inFlightBytes]
  cases r.push with
  | none => cases r.deadline <;> rfl
  | some q => cases r.deadline <;> rfl

/-- Part 1 of a context (R64). -/
theorem Context.part1_eq (x : Context) : x.part1 =
    (match x.inFlight with
      | none => List.replicate 20 (0x00 : Byte)
      | some r =>
        [0x01, BitVec.ofNat 8 r.source.val, r.sequence, BitVec.ofNat 8 r.level.val] ++
        (coordBytes r.target.x ++ coordBytes r.target.y) ++
        [BitVec.ofNat 8 r.targetZone.val, BitVec.ofNat 8 r.originZone.val, if r.entry then 0x01 else 0x00, BitVec.ofNat 8 r.pops] ++
        (match r.push with | none => [0x00, 0x00, 0x00] | some q => [0x01, BitVec.ofNat 8 q.saved.val, BitVec.ofNat 8 q.portal.val]) ++
        (match r.deadline with | none => [0x00, 0x00] | some n => [0x01, BitVec.ofNat 8 n]) ++
        [if r.sent then 0x01 else 0x00]) ++
      (match x.reported with
        | none => List.replicate 7 0x00
        | some p => 0x01 :: (coordBytes p.x ++ coordBytes p.y)) := by
  rw [Context.part1]
  cases x.inFlight with
  | none => cases x.reported <;> rfl
  | some r =>
    rw [inFlightBytes_some]
    cases x.reported <;> rfl

theorem reqReadCarriage_beyond {b k : Byte} (beyond : 31 < b.toNat) (s : State) :
    reqReadCarriage [b, k] s = .refuse .badIndex s := by
  rw [reqReadCarriage, show byteAt [b, k] 0 = b from rfl, carriageOf_eq_none beyond]

theorem reqReadCarriage_named {b k : Byte} {c : Carriage} (names : b.toNat = c.val) (s : State) : reqReadCarriage [b, k] s =
    if k = 0x00 then .read (s.ctx c).part0 s else if k = 0x01 then .read (s.ctx c).part1 s else .refuse .badValue s := by
  rw [reqReadCarriage, show byteAt [b, k] 0 = b from rfl, carriageOf_eq_some names]
  rfl

/-- The carriages that carry a tag of a byte (R65). -/
theorem tagged_eq (s : State) {b : Byte} (small : b.toNat ≤ 127) : s.tagged (b.setWidth 7) =
    (List.finRange 32).filter fun c => decide ((s.ctx c).state ≠ .unenrolled ∧ (s.ctx c).tag.toNat = b.toNat) := by
  rw [State.tagged]
  refine List.filter_congr fun c _ => ?_
  rw [Bool.eq_iff_iff, Bool.and_eq_true, Context.enrolled_iff, decide_eq_true_iff, decide_eq_true_iff, ← BitVec.toNat_inj,
    BitVec.toNat_setWidth, Nat.mod_eq_of_lt (by omega)]

theorem reqFindTag_named {b : Byte} (small : b.toNat ≤ 127) (s : State) : reqFindTag [b] s =
    .read (byteOf (s.tagged (b.setWidth 7)).length :: (s.tagged (b.setWidth 7)).map fun c => byteOf c.val) s :=
  if_neg (Nat.not_lt.2 small)

/-! ### Wait lists and claims -/

theorem reqReadWaitlist_named {b : Byte} {z : ZoneIndex} (names : b.toNat = z.val) (s : State) : reqReadWaitlist [b] s =
    .read (byteOf s.occ.waits[z].length :: byteOfBool s.occ.recheck[z] :: s.occ.waits[z].flatMap (waitBytes s)) s := by
  rw [reqReadWaitlist, byteAt_singleton_zero, zoneIndexOf_eq_some names]

theorem reqReadWaitlist_beyond {b : Byte} (beyond : 63 < b.toNat) (s : State) : reqReadWaitlist [b] s = .refuse .badIndex s := by
  rw [reqReadWaitlist, byteAt_singleton_zero, zoneIndexOf_eq_none beyond]

theorem reqReadOccupancy_named {b : Byte} {z : Zone} (names : b.toNat = z.val) (s : State) : reqReadOccupancy [b] s =
    .read (byteOf (s.claimCount z) :: byteOf (s.waitList z).length :: byteOfBool (s.recheckOf z) ::
      (s.claimants z).map (fun c => byteOf c.val)) s := by
  rw [reqReadOccupancy, byteAt_singleton_zero, zoneOf_eq_some names]

theorem reqReadOccupancy_beyond {b : Byte} (beyond : 64 < b.toNat) (s : State) : reqReadOccupancy [b] s = .refuse .badIndex s := by
  rw [reqReadOccupancy, byteAt_singleton_zero, zoneOf_eq_none beyond]

theorem claimants_eq (s : State) (z : Zone) : s.claimants z = (List.finRange 32).filter fun c =>
    decide ((s.ctx c).state ≠ .unenrolled ∧
      ((s.ctx c).zone = z ∨ ∃ r ∈ (s.ctx c).inFlight, r.entry = true ∧ r.targetZone = z)) := by
  rw [State.claimants]
  refine List.filter_congr fun c _ => ?_
  rw [Bool.eq_iff_iff, Bool.and_eq_true, Context.enrolled_iff, Bool.or_eq_true, decide_eq_true_iff, decide_eq_true_iff]
  refine and_congr Iff.rfl (or_congr Iff.rfl ?_)
  cases (s.ctx c).inFlight with
  | none => simp
  | some r => simp

/-- Settles O60: each read by its owner's equation, its bytes compared with the list of the manual. -/
theorem stateReads : Obligations.StateReads := by
  unfold Obligations.StateReads
  intro s h rid takes manages bit pulse
  refine ⟨?status, ?alert, fun b beyond => ?zoneBeyond, fun b z names => ⟨fun void => ?void, fun f t u portal => ?portal, fun p place => ?place⟩,
    descriptor_castSucc s, ?floor, fun b k beyond => ?carriageBeyond, fun b k c names => ⟨fun large => ?partBeyond, ?parts⟩,
    fun b beyond => ?tagBeyond, fun b small => ?tag, fun b beyond => ?listBeyond, fun b z names => ?list,
    fun b beyond => ?occupancyBeyond, fun b z names => ?occupancy⟩
  case status =>
    refine answers_of_read (r := .readStatus) takes manages rfl nofun (congrArg (Answer.read · _) ?_)
    rw [GovernorState.code_eq, Occupancy.inUse_eq]
    rfl
  case alert =>
    refine answers_of_read (r := .readAlert) takes manages rfl nofun (congrArg (Answer.read · _) ?_)
    rw [Governor.pulseBits_eq _ bit fun _ _ => rfl]
    rfl
  case zoneBeyond => exact answers_of_refused (r := .readZone) takes manages rfl nofun (reqReadZone_beyond beyond _)
  case void =>
    have read := reqReadZone_named names (setReceiver .u .idle s)
    rw [show (setReceiver .u .idle s).descriptor z = .void from void] at read
    exact answers_of_read (r := .readZone) takes manages rfl nofun read
  case portal =>
    have read := reqReadZone_named names (setReceiver .u .idle s)
    rw [show (setReceiver .u .idle s).descriptor z = .portal f t u from portal] at read
    exact answers_of_read (r := .readZone) takes manages rfl nofun read
  case place =>
    have read := reqReadZone_named names (setReceiver .u .idle s)
    rw [show (setReceiver .u .idle s).descriptor z = .place p from place] at read
    refine answers_of_read (r := .readZone) takes manages rfl nofun (read.trans (congrArg (Answer.read · _) ?_))
    exact congrArg (b :: ·) (descriptorBytes_place p)
  case floor => exact answers_of_read (r := .readZone) takes manages rfl nofun rfl
  case carriageBeyond =>
    exact answers_of_refused (r := .readCarriage) takes manages rfl nofun (reqReadCarriage_beyond beyond _)
  case partBeyond =>
    refine answers_of_refused (r := .readCarriage) takes manages rfl nofun ((reqReadCarriage_named names _).trans ?_)
    rw [if_neg (by bv_omega), if_neg (by bv_omega)]
  case parts =>
    intro x byte point level
    refine ⟨fun zero => ?_, fun one => ?_⟩
    · refine answers_of_read (r := .readCarriage) takes manages rfl nofun
        ((reqReadCarriage_named names _).trans ((if_pos zero).trans (congrArg (Answer.read · _) ?_)))
      exact Context.part0_eq x
    · subst one
      refine answers_of_read (r := .readCarriage) takes manages rfl nofun
        ((reqReadCarriage_named names _).trans ((if_neg (by decide)).trans ((if_pos rfl).trans (congrArg (Answer.read · _) ?_))))
      exact Context.part1_eq x
  case tagBeyond => exact answers_of_refused (r := .findTag) takes manages rfl nofun (if_pos beyond)
  case tag =>
    intro found
    refine answers_of_read (r := .findTag) takes manages rfl nofun ((reqFindTag_named small _).trans (congrArg (Answer.read · _) ?_))
    rw [tagged_eq (setReceiver .u .idle s) small]
    rfl
  case listBeyond => exact answers_of_refused (r := .readWaitlist) takes manages rfl nofun (reqReadWaitlist_beyond beyond _)
  case list =>
    refine answers_of_read (r := .readWaitlist) takes manages rfl nofun ((reqReadWaitlist_named names _).trans (congrArg (Answer.read · _) ?_))
    rfl
  case occupancyBeyond => exact answers_of_refused (r := .readOccupancy) takes manages rfl nofun (reqReadOccupancy_beyond beyond _)
  case occupancy =>
    intro claimants
    refine answers_of_read (r := .readOccupancy) takes manages rfl nofun
      ((reqReadOccupancy_named names _).trans (congrArg (Answer.read · _) ?_))
    rw [claimants_eq]
    rfl

end Sys2Proof.Machine
end

section
/-! The base tick (R68, R113, R125, R126, R139, R149, R156): what a tick leaves of the timers, a tick that ends no count, and
the effects of a base tick in full. -/

namespace Sys2Proof.Machine

/-! ### The timers after a tick -/

/-- A timer after its expiry: loaded from its preset where its counter runs out (R139). -/
def Timer.expired (t : Timer) : Timer := if t.enabled = true ∧ t.counter = 1 then { t with counter := t.preset } else t

theorem Timer.expired_expired (t : Timer) : t.expired.expired = t.expired := by
  unfold Timer.expired
  by_cases due : t.enabled = true ∧ t.counter = 1
  · rw [if_pos due]
    split <;> rfl
  · rw [if_neg due, if_neg due]

/-- The expiry of a timer changes that timer alone. -/
theorem expireTimer_timer (n m : Fin 4) (s : State) : (expireTimer n s).time.timers[m] =
    if m = n then s.time.timers[m].expired else s.time.timers[m] := by
  rw [Fin.getElem_fin, expireTimer_timers, Timer.expired]
  by_cases same : m = n
  · subst same
    rw [if_pos rfl]
    split
    · exact Vector.getElem_set_self _
    · rfl
  · rw [if_neg same]
    split
    · exact Vector.getElem_set_ne n.isLt m.isLt fun eq => same (Fin.ext eq.symm)
    · rfl

theorem take_timer (a : TickEvent) (n : Fin 4) (s : State) : (TickEvent.take s a).time.timers[n] =
    if a = .timer n then s.time.timers[n].expired else s.time.timers[n] := by
  by_cases timer : ∃ m, a = .timer m
  · obtain ⟨m, rfl⟩ := timer
    refine (expireTimer_timer m n s).trans (if_congr ?_ rfl rfl)
    rw [TickEvent.timer.injEq, eq_comm]
  · rw [if_neg fun eq => timer ⟨n, eq⟩, Fin.getElem_fin, take_timers fun m eq => timer ⟨m, eq⟩]
    rfl

theorem foldl_take_timer (l : List TickEvent) (n : Fin 4) (s : State) : (l.foldl TickEvent.take s).time.timers[n] =
    if TickEvent.timer n ∈ l then s.time.timers[n].expired else s.time.timers[n] := by
  induction l generalizing s with
  | nil => exact (if_neg List.not_mem_nil).symm
  | cons a l ih =>
    rw [List.foldl_cons, ih, take_timer]
    by_cases here : a = .timer n
    · rw [if_pos here, Timer.expired_expired, ite_self, if_pos (here ▸ .head _)]
    · rw [if_neg here]
      refine if_congr ?_ rfl rfl
      rw [List.mem_cons, or_iff_right fun eq => here eq.symm]

/-- A timer whose count runs out at a tick (R139). -/
def State.Fires (s : State) (t : Ticks) (n : Fin 4) : Prop :=
  s.time.timers[n].enabled = true ∧ t.counts s.time.timers[n].source = true ∧ s.time.timers[n].counter = 1

theorem mem_timerEvents (s : State) (t : Ticks) (n : Fin 4) : TickEvent.timer n ∈ s.timerEvents t ↔ s.Fires t n := by
  simp [State.timerEvents, State.Fires, and_assoc]

theorem mem_orderedEvents (s : State) (t : Ticks) (assertion : Bool) (a : TickEvent) :
    a ∈ s.orderedEvents t assertion ↔ a ∈ s.looseEvents t assertion ∨ a ∈ s.holdEvents t := by
  rw [(orderedEvents_perm s t assertion).mem_iff, List.mem_append]

theorem timer_mem_orderedEvents (s : State) (t : Ticks) (assertion : Bool) (n : Fin 4) :
    TickEvent.timer n ∈ s.orderedEvents t assertion ↔ s.Fires t n := by
  have other : TickEvent.timer n ∉ s.pulseEvents t ∧ TickEvent.timer n ∉ (if assertion then [TickEvent.stop] else []) ∧
      TickEvent.timer n ∉ s.deadlineEvents t ∧ TickEvent.timer n ∉ s.windowEvents t ∧ TickEvent.timer n ∉ s.holdEvents t := by
    refine ⟨?_, ?_, ?_, ?_, ?_⟩
    · unfold State.pulseEvents; split <;> simp
    · split <;> simp
    · unfold State.deadlineEvents; split <;> simp
    · unfold State.windowEvents; split <;> simp
    · unfold State.holdEvents; split <;> simp
  obtain ⟨pulses, stop, deadlines, windows, holds⟩ := other
  rw [mem_orderedEvents, State.looseEvents, List.mem_append, List.mem_append, List.mem_append, List.mem_append, mem_timerEvents,
    or_iff_left holds, or_iff_left windows, or_iff_left deadlines, or_iff_right (not_or.2 ⟨pulses, stop⟩)]

theorem countTicks_timer (t : Ticks) (s : State) (n : Fin 4) : (countTicks t s).time.timers[n] = s.time.timers[n].count t := by
  rw [countTicks]
  exact Vector.getElem_map _ n.isLt

/-- A timer after a tick: loaded from its preset where it fires, counted otherwise (R139). -/
theorem takeTicks_timer (t : Ticks) (assertion : Bool) (s : State) (n : Fin 4) : (takeTicks t assertion s).time.timers[n] =
    if s.time.timers[n].enabled = true ∧ t.counts s.time.timers[n].source = true ∧ s.time.timers[n].counter = 1 then
      { s.time.timers[n] with counter := s.time.timers[n].preset }
    else s.time.timers[n].count t := by
  rw [takeTicks, foldl_take_timer, countTicks_timer]
  refine if_ctx_congr (timer_mem_orderedEvents s t assertion n) (fun fires => ?_) fun _ => rfl
  obtain ⟨enabled, -, one⟩ := fires
  have still : s.time.timers[n].count t = s.time.timers[n] := if_neg (by rw [one]; simp)
  rw [still, Timer.expired, if_pos ⟨enabled, one⟩]

/-- The three cases of a timer at a tick at which it counts where `due` says so (R139). -/
theorem timer_cases {t : Ticks} {k k' : Timer} {due : Prop} (counts : due ↔ k.enabled = true ∧ t.counts k.source = true)
    (after : k' = if k.enabled = true ∧ t.counts k.source = true ∧ k.counter = 1 then { k with counter := k.preset } else k.count t) :
    (¬due → k' = k) ∧ (due → k.counter = 1 → k' = { k with counter := k.preset }) ∧
      (due → 1 < k.counter.toNat → k' = { k with counter := k.counter - 1 }) := by
  subst after
  refine ⟨fun idle => ?_, fun due one => ?_, fun due more => ?_⟩
  · rw [counts] at idle
    rw [if_neg fun fires => idle ⟨fires.1, fires.2.1⟩]
    refine if_neg ?_
    rw [Bool.and_eq_true, Bool.and_eq_true]
    exact fun counted => idle counted.1
  · obtain ⟨enabled, ticks⟩ := counts.1 due
    exact if_pos ⟨enabled, ticks, one⟩
  · obtain ⟨enabled, ticks⟩ := counts.1 due
    rw [if_neg fun fires => absurd more (by rw [fires.2.2]; decide)]
    exact if_pos (by rw [enabled, ticks, decide_eq_true more]; rfl)

/-! ### The ticks of a base tick -/

/-- The seconds roll exactly at 59 (R126). -/
theorem rolls_iff (c : Calendar) : c.rolls = true ↔ c.seconds = 0x59 := by
  rw [Calendar.rolls, decide_eq_true_iff, bcdValue, ← BitVec.toNat_inj, show (0x59 : Byte).toNat = 89 from rfl]
  have small := c.seconds.isLt
  omega

theorem rolls_eq (c : Calendar) : c.rolls = decide (c.seconds = 0x59) := by
  rw [Bool.eq_iff_iff, rolls_iff, decide_eq_true_iff]

theorem completePowerOn_of_done {s : State} (done : s.gov.powerOnHold = false) : completePowerOn s = s :=
  if_neg (by rw [done]; nofun)

theorem completePowerOn_cases (s : State) : (completePowerOn s).time = s.time ∧ (completePowerOn s).gov.stopn = s.gov.stopn ∧
    (completePowerOn s).gov.stopnCount = s.gov.stopnCount := by
  unfold completePowerOn
  split
  · exact ⟨rfl, rfl, rfl⟩
  · exact ⟨rfl, rfl, rfl⟩

/-- One sample of STOPn (R149). -/
theorem debounce_eq (raw level : Bool) (count : Nat) : debounce raw level count =
    if raw = level then (raw, 0) else if count < 3 then (level, count + 1) else (raw, 0) := by
  unfold debounce
  by_cases same : raw = level
  · rw [if_pos same, if_pos same, same]
  · rw [if_neg same, if_neg same]
    by_cases few : count < 3
    · rw [if_pos few, if_neg (by omega)]
    · rw [if_neg few, if_pos (by omega)]

/-- What the base tick is, where no power-on reset completes. -/
theorem takeBaseTick_of_done {s : State} (raw : Bool) (done : s.gov.powerOnHold = false) :
    takeBaseTick raw s = takeTicks s.baseTicks (s.assertsStop raw) (countBase raw s) := by
  rw [takeBaseTick, completePowerOn_of_done done]

theorem baseTicks_counts (s : State) (source : TimerSource) : s.baseTicks.counts source = true ↔
    source = .ms1 ∨ source = .ms10 ∧ (s.time.divider + 1) % 100 % 10 = 0 ∨ source = .s1 ∧ 999 ≤ s.time.subSecond ∨
      source = .min1 ∧ 999 ≤ s.time.subSecond ∧ s.time.calendar.seconds = 0x59 := by
  cases source <;> simp [Ticks.counts, State.baseTicks, rolls_eq]

/-! ### A tick that ends no count -/

/-- With no pulse running the pulse decrement changes nothing. -/
theorem pulseTick_of_none {g : Governor} (none : g.pulses.toList.any (0 < ·) = false) : g.pulseTick = g := by
  have zero : ∀ p, (lt : p < 5) → g.pulses[p] = 0 := fun p lt => by
    have each := List.any_eq_false.1 none g.pulses[p] (by simp)
    simpa using each
  have same : g.pulses.map (· - 1) = g.pulses := by
    ext p lt
    rw [Vector.getElem_map, zero p lt]
  rw [Governor.pulseTick, same]

theorem timerEvents_eq_nil {s : State} {t : Ticks} (none : ∀ n, ¬s.Fires t n) : s.timerEvents t = [] := by
  rw [State.timerEvents, List.map_eq_nil_iff, List.filter_eq_nil_iff]
  intro n _ fires
  rw [Bool.and_eq_true, Bool.and_eq_true, decide_eq_true_iff] at fires
  exact none n ⟨fires.1.1, fires.1.2, fires.2⟩

/-- A base tick whose counts all go on is the counting and the pulse decrement (R125, R156). -/
theorem takeTicks_quiet {s : State} {t : Ticks} (base : t.base = true) (hundred : t.hundred = false) (minute : t.minute = false)
    (none : ∀ n, ¬s.Fires t n) :
    takeTicks t false s = { countTicks t s with gov := s.gov.pulseTick } := by
  have timers := timerEvents_eq_nil none
  have windows : s.windowEvents t = [] := by rw [State.windowEvents, minute]; rfl
  have deadlines : s.deadlineEvents t = [] := by rw [State.deadlineEvents, hundred]; rfl
  have holds : s.holdEvents t = [] := by rw [State.holdEvents, hundred]; rfl
  have loose : s.looseEvents t false = s.pulseEvents t := by
    rw [State.looseEvents, timers, windows, deadlines]
    simp
  have pulses : s.pulseEvents t = if s.gov.pulses.toList.any (0 < ·) then [TickEvent.pulses] else [] := by
    rw [State.pulseEvents, timers, windows, base]
    simp
  rw [pulses] at loose
  rw [takeTicks]
  split at loose
  · rw [orderedEvents_of_single loose holds]
    rfl
  next idle =>
    rw [orderedEvents_of_holds loose, holds, pulseTick_of_none ((Bool.not_eq_true _).mp idle)]
    rfl

/-! ### The effects of a base tick in full -/

theorem take_eq : TickEvent.take = fun (u : State) (a : TickEvent) => match a with
    | .pulses => { u with gov := { u.gov with pulses := u.gov.pulses.map (· - 1) } }
    | .stop => (match u.gov.state with
      | .standby => u
      | .governing => haltEntry (raise .stop u)
      | .halted => raise .stop u)
    | .timer n => expireTimer n u
    | .deadline c => expireDeadline c u
    | .hold e => expireHold e u
    | .windows => evalWindows u := by
  funext u a
  cases a <;> rfl

/-- With no window in use a minute update changes no window. -/
theorem evalWindows_of_idle {s : State} (idle : s.time.timeInvalid = true ∨ ∀ w : Fin 16, s.time.windows[w].inUse = false) :
    evalWindows s = s := by
  unfold evalWindows
  rcases idle with invalid | unused
  · exact if_pos invalid
  · split
    · rfl
    · induction List.finRange 16 with
      | nil => rfl
      | cons w l ih =>
        have passed : evalWindow s w = s := if_neg (by rw [unused]; nofun)
        rw [List.foldl_cons, passed]
        exact ih

/-- The pulse decrement is listed, or changes nothing. -/
theorem pulseEvents_cases {s : State} {t : Ticks} (base : t.base = true) : s.pulseEvents t = [.pulses] ∨
    s.pulseEvents t = [] ∧ TickEvent.take (countTicks t s) .pulses = countTicks t s := by
  unfold State.pulseEvents
  split
  · exact .inl rfl
  next unlisted =>
    refine .inr ⟨rfl, ?_⟩
    rw [base, Bool.true_and, Bool.or_eq_true, not_or, Bool.not_eq_true] at unlisted
    show { countTicks t s with gov := s.gov.pulseTick } = _
    rw [pulseTick_of_none unlisted.1]
    rfl

/-- The window evaluation of a minute update is listed, or changes nothing. -/
theorem windowEvents_cases (s : State) (t : Ticks) : s.windowEvents t = (if t.minute then [.windows] else []) ∨
    s.windowEvents t = [] ∧ TickEvent.take (countTicks t s) .windows = countTicks t s := by
  unfold State.windowEvents
  cases t.minute with
  | false => exact .inl rfl
  | true =>
    split
    · exact .inl rfl
    next unlisted =>
      refine .inr ⟨rfl, evalWindows_of_idle ?_⟩
      rw [Bool.true_and, Bool.and_eq_true, not_and_or, Bool.not_eq_true', Bool.not_eq_false, Bool.not_eq_true,
        List.any_eq_false] at unlisted
      refine unlisted.imp id fun unused w => ?_
      have each := unused s.time.windows[w] (by simp)
      exact (Bool.not_eq_true _).mp each

/-- The effects of a base tick as a list in which the pulse decrement, and at a minute update the window evaluation, always
stand: where the tick does not list one of them, it changes nothing (R125, R156). -/
theorem takeTicks_full {s : State} {t : Ticks} (base : t.base = true) (assertion : Bool) : ∃ order : List TickEvent,
    order.Perm ([.pulses] ++ (if assertion then [TickEvent.stop] else []) ++ s.timerEvents t ++ s.deadlineEvents t ++
      (if t.minute then [.windows] else []) ++ s.holdEvents t) ∧
    (s.holdEvents t).Sublist order ∧ takeTicks t assertion s = order.foldl TickEvent.take (countTicks t s) := by
  obtain ⟨ps, pulses, still_pulses⟩ : ∃ ps, ps ++ s.pulseEvents t = [TickEvent.pulses] ∧
      ps.foldl TickEvent.take (countTicks t s) = countTicks t s := by
    rcases pulseEvents_cases (s := s) base with listed | ⟨unlisted, still⟩
    · exact ⟨[], listed, rfl⟩
    · exact ⟨[.pulses], by rw [unlisted]; rfl, still⟩
  obtain ⟨ws, windows, still_windows⟩ : ∃ ws, ws ++ s.windowEvents t = (if t.minute then [TickEvent.windows] else []) ∧
      ws.foldl TickEvent.take (countTicks t s) = countTicks t s := by
    rcases windowEvents_cases s t with listed | ⟨unlisted, still⟩
    · exact ⟨[], listed, rfl⟩
    · refine ⟨if t.minute then [.windows] else [], by rw [unlisted, List.append_nil], ?_⟩
      split
      · exact still
      · rfl
  refine ⟨ps ++ ws ++ s.orderedEvents t assertion, ?_, (holdEvents_sublist s t assertion).trans (List.sublist_append_right _ _), ?_⟩
  · rw [← pulses, ← windows, List.perm_iff_count]
    intro a
    have count := List.perm_iff_count.1 (orderedEvents_perm s t assertion) a
    simp only [State.looseEvents, List.count_append] at count ⊢
    omega
  · rw [takeTicks, List.foldl_append, List.foldl_append, still_pulses, still_windows]

end Sys2Proof.Machine
end

section
/-! The base tick: its statement (R68, R113, R125, R126, R128, R139, R149, R156). -/

namespace Sys2Proof.Machine

/-- The counts of a base tick, spelled out (R68, R113, R125, R126, R139, R149). -/
theorem countTicks_baseTicks (s : State) (raw : Bool) : countTicks s.baseTicks (countBase raw s) =
    { s with
      freeCount := s.freeCount + 1
      time := { s.time with
        divider := (s.time.divider + 1) % 100
        subSecond := if 999 ≤ s.time.subSecond then 0 else s.time.subSecond + 1
        calendar := if 999 ≤ s.time.subSecond then s.time.calendar.advance else s.time.calendar
        timers := s.time.timers.map fun k => k.count s.baseTicks }
      gov := { s.gov with
        stopn := (debounce raw s.gov.stopn s.gov.stopnCount).1, stopnCount := (debounce raw s.gov.stopn s.gov.stopnCount).2 }
      carriages := if (s.time.divider + 1) % 100 = 0 then s.carriages.map Context.countDeadline else s.carriages
      occ := if (s.time.divider + 1) % 100 = 0 then { s.occ with pool := s.occ.pool.map (Option.map HoldEntry.count) } else s.occ } := by
  unfold countTicks countBase State.baseTicks
  simp only [decide_eq_true_eq]

theorem baseTick_time (s : State) (raw : Bool) : SameBase (countTicks s.baseTicks (countBase raw (completePowerOn s))) (takeBaseTick raw s) :=
  sameBase_takeTicks _ _ _

theorem SameBase.stopn {s t : State} (h : SameBase s t) : t.gov.stopn = s.gov.stopn ∧ t.gov.stopnCount = s.gov.stopnCount := by
  obtain ⟨_, _, _, gov⟩ := h.gov
  rw [gov]
  exact ⟨rfl, rfl⟩

/-- The time base, the calendar and the STOPn sample after a base tick (R125, R126, R128, R149). -/
theorem takeBaseTick_counts (s : State) (raw : Bool) :
    (takeBaseTick raw s).time.divider = (s.time.divider + 1) % 100 ∧
      (takeBaseTick raw s).time.subSecond = (if 999 ≤ s.time.subSecond then 0 else s.time.subSecond + 1) ∧
      (takeBaseTick raw s).time.calendar = (if 999 ≤ s.time.subSecond then s.time.calendar.advance else s.time.calendar) ∧
      (takeBaseTick raw s).time.timeInvalid = s.time.timeInvalid ∧
      (takeBaseTick raw s).gov.stopn = (debounce raw s.gov.stopn s.gov.stopnCount).1 ∧
      (takeBaseTick raw s).gov.stopnCount = (debounce raw s.gov.stopn s.gov.stopnCount).2 := by
  obtain ⟨time, stopn, count⟩ := completePowerOn_cases s
  have base := baseTick_time s raw
  have counted : (countTicks s.baseTicks (countBase raw (completePowerOn s))).time = { s.time with
      divider := (s.time.divider + 1) % 100
      subSecond := if 999 ≤ s.time.subSecond then 0 else s.time.subSecond + 1
      calendar := if 999 ≤ s.time.subSecond then s.time.calendar.advance else s.time.calendar
      timers := s.time.timers.map fun k => k.count s.baseTicks } := by
    have spelled := congrArg State.time (countTicks_baseTicks (completePowerOn s) raw)
    rw [show (completePowerOn s).baseTicks = s.baseTicks by rw [State.baseTicks, time]; rfl] at spelled
    rw [spelled, time]
  refine ⟨?_, ?_, ?_, ?_, ?_, ?_⟩
  · rw [base.divider, counted]
  · rw [base.subSecond, counted]
  · rw [base.calendar, counted]
  · rw [base.timeInvalid, counted]
  · rw [base.stopn.1, ← stopn, ← count]; rfl
  · rw [base.stopn.2, ← stopn, ← count]; rfl

theorem takeBaseTick_timer (s : State) (raw : Bool) (n : Fin 4) : (takeBaseTick raw s).time.timers[n] =
    if s.time.timers[n].enabled = true ∧ s.baseTicks.counts s.time.timers[n].source = true ∧ s.time.timers[n].counter = 1 then
      { s.time.timers[n] with counter := s.time.timers[n].preset }
    else s.time.timers[n].count s.baseTicks := by
  have timers : (countBase raw (completePowerOn s)).time.timers = s.time.timers := by
    show (completePowerOn s).time.timers = _
    rw [(completePowerOn_cases s).1]
  rw [takeBaseTick, takeTicks_timer, timers]

/-- The deadline expiries of a 100 ms tick (R68, R69). -/
theorem deadlineEvents_eq (s : State) (t : Ticks) : s.deadlineEvents t = if t.hundred = true then ((List.finRange 32).filter fun c =>
    decide ((s.ctx c).state = .moving ∧ ∃ r ∈ (s.ctx c).inFlight, r.sent = true ∧ r.deadline = some 1)).map TickEvent.deadline
    else [] := by
  rw [State.deadlineEvents]
  refine if_congr Iff.rfl (congrArg (List.map TickEvent.deadline) (List.filter_congr fun c _ => ?_)) rfl
  rw [Bool.eq_iff_iff, Bool.and_eq_true, decide_eq_true_iff, decide_eq_true_iff]
  refine and_congr Iff.rfl ?_
  cases (s.ctx c).inFlight with
  | none => simp
  | some r => simp

/-- The hold expiries of a 100 ms tick (R113). -/
theorem holdEvents_eq (s : State) (t : Ticks) : s.holdEvents t = if t.hundred = true then
    ((List.finRange 16).filter fun e => decide (∃ h ∈ s.occ.pool[e], h.remaining = 1)).map TickEvent.hold else [] := by
  rw [State.holdEvents]
  refine if_congr Iff.rfl (congrArg (List.map TickEvent.hold) (List.filter_congr fun e _ => ?_)) rfl
  rw [Bool.eq_iff_iff, decide_eq_true_iff]
  cases s.occ.pool[e] with
  | none => simp
  | some h => simp

/-- Settles O44: the counts by the sample and the time base, and the effects of the tick as a list in an open order. -/
theorem baseTick : Obligations.BaseTick := by
  unfold Obligations.BaseTick
  refine ⟨fun s raw => ?_, fun s done stopn subSecond divider running => ?_, fun s n c e => ⟨rfl, rfl, rfl⟩, fun s raw done => ?_⟩
  · obtain ⟨divider, subSecond, calendar, invalid, stopn, count⟩ := takeBaseTick_counts s raw
    rw [debounce_eq] at stopn count
    refine ⟨_, rfl, divider, subSecond, calendar, invalid, fun same => ?_, fun differs few => ?_, fun differs many => ?_, fun n => ?_⟩
    · rw [if_pos same] at stopn count
      exact ⟨stopn, count⟩
    · rw [if_neg differs, if_pos few] at stopn count
      exact ⟨stopn, count⟩
    · rw [if_neg differs, if_neg (Nat.not_lt.2 many)] at stopn count
      exact ⟨stopn, count⟩
    · intro k due
      exact timer_cases (and_congr Iff.rfl (baseTicks_counts s k.source).symm) (takeBaseTick_timer s raw n)
  · intro ten
    have late : ¬999 ≤ s.time.subSecond := Nat.not_le.2 subSecond
    have hundred : s.baseTicks.hundred = false := decide_eq_false divider
    have minute : s.baseTicks.minute = false := by rw [State.baseTicks, decide_eq_false late]; rfl
    have quiet : ∀ n, ¬(countBase false s).Fires s.baseTicks n := fun n fires => (running n fires.1).1 fires.2.2
    have silent : s.assertsStop false = false := by rw [State.assertsStop, stopn]; rfl
    have counts : ∀ source : TimerSource, s.baseTicks.counts source = true ↔ source = .ms1 ∨ source = .ms10 ∧ ten := fun source => by
      rw [baseTicks_counts, Nat.mod_mod_of_dvd _ (by decide : 10 ∣ 100)]
      simp [late, ten]
    have timers : (s.time.timers.map fun k => k.count s.baseTicks) = s.time.timers.map fun t =>
        if t.enabled = true ∧ (t.source = .ms1 ∨ t.source = .ms10 ∧ ten) then { t with counter := t.counter - 1 } else t := by
      ext1 n lt
      rw [Vector.getElem_map, Vector.getElem_map, Timer.count]
      refine if_congr ?_ rfl rfl
      rw [Bool.and_eq_true, Bool.and_eq_true, counts, decide_eq_true_iff, and_iff_left_of_imp]
      intro counted
      obtain ⟨not_one, not_zero⟩ := running ⟨n, lt⟩ counted.1
      have one : s.time.timers[n].counter ≠ 1 := not_one
      have zero : s.time.timers[n].counter ≠ 0 := not_zero
      bv_omega
    show Host.Outcome.next (takeBaseTick false s) = _
    rw [takeBaseTick_of_done false done, silent, takeTicks_quiet rfl hundred minute quiet, countTicks_baseTicks, timers, if_neg late,
      if_neg late, if_neg divider, if_neg divider, countBase, debounce_eq, if_pos stopn.symm]
    have released : s.gov.stopn = false := stopn
    rw [← released]
    rfl
  · intro divider second minute due sample counted effect loose holds
    have sampled : debounce raw s.gov.stopn s.gov.stopnCount = sample := debounce_eq ..
    have rolls : s.baseTicks.minute = minute := by
      show (second && s.time.calendar.rolls) = _
      rw [rolls_eq]
    have counts : ∀ source, s.baseTicks.counts source = due source := fun source => by
      cases source with
      | min1 => exact rolls
      | _ => rfl
    have counting : (s.time.timers.map fun k => k.count s.baseTicks) = s.time.timers.map fun k =>
        if k.enabled && due k.source && decide (1 < k.counter.toNat) then { k with counter := k.counter - 1 } else k :=
      congrArg (s.time.timers.map ·) (funext fun k => by rw [Timer.count, counts])
    have counted_eq : countTicks s.baseTicks (countBase raw s) = counted := by
      rw [countTicks_baseTicks, sampled, counting]
      simp only [counted, second, decide_eq_true_eq]
      rfl
    have asserts : s.assertsStop raw = (sample.1 && !s.gov.stopn) := by rw [State.assertsStop, sampled, Bool.and_comm]
    have timers : (countBase raw s).timerEvents s.baseTicks = ((List.finRange 4).filter fun n =>
        s.time.timers[n].enabled && due s.time.timers[n].source && decide (s.time.timers[n].counter = 1)).map TickEvent.timer :=
      congrArg (List.map TickEvent.timer) (List.filter_congr fun n _ => by rw [← counts]; rfl)
    have deadlines : (countBase raw s).deadlineEvents s.baseTicks = if divider = 0 then ((List.finRange 32).filter fun c =>
        decide ((s.ctx c).state = .moving ∧ ∃ r ∈ (s.ctx c).inFlight, r.sent = true ∧ r.deadline = some 1)).map TickEvent.deadline
        else [] := (deadlineEvents_eq _ _).trans (if_congr decide_eq_true_iff rfl rfl)
    have expiries : (countBase raw s).holdEvents s.baseTicks = holds :=
      (holdEvents_eq _ _).trans (if_congr decide_eq_true_iff rfl rfl)
    obtain ⟨order, perm, sublist, taken⟩ := takeTicks_full (s := countBase raw s) (t := s.baseTicks) rfl (s.assertsStop raw)
    rw [asserts, timers, deadlines, rolls, expiries] at perm
    rw [expiries] at sublist
    rw [counted_eq, take_eq] at taken
    exact ⟨order, perm, sublist, congrArg Host.Outcome.next ((takeBaseTick_of_done raw done).trans taken)⟩

end Sys2Proof.Machine
end

section
/-! The 100 ms tick and the second update (R68, R113, R125, R126, R128, R139): ticks without a pulse decrement, whose effects
are expiries. -/

namespace Sys2Proof.Machine

/-! ### The effects of a tick other than the base tick -/

theorem pulseEvents_coarse {s : State} {t : Ticks} (coarse : t.base = false) : s.pulseEvents t = [] := by
  rw [State.pulseEvents, coarse]
  rfl

theorem windowEvents_coarse {s : State} {t : Ticks} (coarse : t.minute = false) : s.windowEvents t = [] := by
  rw [State.windowEvents, coarse]
  rfl

theorem looseEvents_coarse {s : State} {t : Ticks} (base : t.base = false) (minute : t.minute = false) :
    s.looseEvents t false = s.timerEvents t ++ s.deadlineEvents t := by
  rw [State.looseEvents, pulseEvents_coarse base, windowEvents_coarse minute]
  simp

/-- A present element that alone satisfies a test is all that a filter of the indices leaves. -/
theorem filter_finRange_single {n : Nat} {p : Fin n → Bool} {a : Fin n} (here : p a = true) (others : ∀ b, b ≠ a → ¬p b = true) :
    (List.finRange n).filter p = [a] := by
  have same : (List.finRange n).filter p = (List.finRange n).filter (· == a) := List.filter_congr fun b _ => by
    rw [Bool.eq_iff_iff, beq_iff_eq]
    exact ⟨fun holds => by_contra fun other => others b other holds, fun eq => eq ▸ here⟩
  rw [same, List.filter_beq, List.count_eq_one_of_mem (List.nodup_finRange n) (List.mem_finRange a)]
  rfl

theorem filter_finRange_none {n : Nat} {p : Fin n → Bool} (none : ∀ a, ¬p a = true) : (List.finRange n).filter p = [] :=
  List.filter_eq_nil_iff.2 fun a _ => none a

/-- The timer expiries of a tick, by the timers that fire. -/
theorem timerEvents_single {s : State} {t : Ticks} {n : Fin 4} (fires : s.Fires t n) (others : ∀ m, m ≠ n → ¬s.Fires t m) :
    s.timerEvents t = [.timer n] := by
  have test : ∀ m, (s.time.timers[m].enabled && t.counts s.time.timers[m].source && decide (s.time.timers[m].counter = 1)) = true ↔
      s.Fires t m := fun m => by
    rw [Bool.and_eq_true, Bool.and_eq_true, decide_eq_true_iff, and_assoc]
    exact Iff.rfl
  rw [State.timerEvents, filter_finRange_single ((test n).2 fires) fun m other => mt (test m).1 (others m other)]
  rfl

/-- A carriage whose sent move runs out at a 100 ms tick (R68, R69). -/
abbrev State.Late (s : State) (c : Carriage) : Prop :=
  (s.ctx c).state = .moving ∧ ∃ r ∈ (s.ctx c).inFlight, r.sent = true ∧ r.deadline = some 1

/-- A hold that runs out at a 100 ms tick (R113). -/
abbrev State.Ends (s : State) (e : Fin 16) : Prop := ∃ h ∈ s.occ.pool[e], h.remaining = 1

theorem deadlineEvents_eq_nil {s : State} (t : Ticks) (none : ∀ c, ¬s.Late c) : s.deadlineEvents t = [] := by
  rw [deadlineEvents_eq, filter_finRange_none fun c late => none c (decide_eq_true_iff.1 late)]
  exact ite_self _

theorem deadlineEvents_single {s : State} {t : Ticks} {c : Carriage} (hundred : t.hundred = true) (late : s.Late c)
    (others : ∀ k, k ≠ c → ¬s.Late k) : s.deadlineEvents t = [.deadline c] := by
  rw [deadlineEvents_eq, if_pos hundred,
    filter_finRange_single (decide_eq_true late) fun k other late => others k other (decide_eq_true_iff.1 late)]
  rfl

theorem holdEvents_eq_nil {s : State} (t : Ticks) (none : ∀ e, ¬s.Ends e) : s.holdEvents t = [] := by
  rw [holdEvents_eq, filter_finRange_none fun e ends => none e (decide_eq_true_iff.1 ends)]
  exact ite_self _

theorem holdEvents_of_fine {s : State} {t : Ticks} (fine : t.hundred = false) : s.holdEvents t = [] := by
  rw [State.holdEvents, fine]
  rfl

theorem deadlineEvents_of_fine {s : State} {t : Ticks} (fine : t.hundred = false) : s.deadlineEvents t = [] := by
  rw [State.deadlineEvents, fine]
  rfl

/-- A tick with no effect is its counting. -/
theorem takeTicks_of_none {s : State} {t : Ticks} {assertion : Bool} (loose : s.looseEvents t assertion = [])
    (holds : s.holdEvents t = []) : takeTicks t assertion s = countTicks t s := by
  rw [takeTicks, orderedEvents_of_holds loose, holds]
  rfl

/-- A tick with one effect is that effect on its counting. -/
theorem takeTicks_of_single {s : State} {t : Ticks} {assertion : Bool} {a : TickEvent} (loose : s.looseEvents t assertion = [a])
    (holds : s.holdEvents t = []) : takeTicks t assertion s = TickEvent.take (countTicks t s) a := by
  rw [takeTicks, orderedEvents_of_single loose holds]
  rfl

/-! ### Holds that expire together -/

/-- The end of a hold leaves every other entry of the pool. -/
theorem endHold_pool_of_ne (v : Verdict) (r : Reason) {e k : Fin 16} (other : k ≠ e) (s : State) :
    (endHold v r e s).occ.pool[k] = s.occ.pool[k] := by
  cases used : s.occ.pool[e] with
  | none =>
    unfold endHold
    rw [used]
  | some h =>
    obtain ⟨warn, backlog, occ⟩ := endHold_occ v r used
    rw [occ]
    exact Vector.getElem_set_ne e.isLt k.isLt fun eq => other (Fin.ext eq.symm)

/-- Holds that all run out expire one after the other (R113). -/
theorem foldl_expireHold {l : List (Fin 16)} (once : l.Nodup) {s : State} (due : ∀ e ∈ l, s.Ends e) :
    l.foldl (fun u e => expireHold e u) s = l.foldl (fun u e => endHold .expired .none e u) s := by
  induction l generalizing s with
  | nil => rfl
  | cons e l ih =>
    obtain ⟨fresh, once⟩ := List.nodup_cons.1 once
    obtain ⟨h, used, one⟩ := due e (.head _)
    rw [List.foldl_cons, List.foldl_cons, expireHold_of_due used one]
    refine ih once fun k mem => ?_
    rw [State.Ends, endHold_pool_of_ne _ _ (ne_of_mem_of_not_mem mem fresh)]
    exact due k (.tail _ mem)

theorem HoldEntry.count_of_due {h : HoldEntry} (due : h.remaining = 1) : h.count = h := if_neg (by rw [due]; decide)

theorem countTicks_pool {t : Ticks} (hundred : t.hundred = true) (s : State) (e : Fin 16) :
    (countTicks t s).occ.pool[e] = s.occ.pool[e].map HoldEntry.count := by
  rw [countTicks, hundred]
  exact Vector.getElem_map _ e.isLt

theorem countTicks_ctx {t : Ticks} (hundred : t.hundred = true) (s : State) (c : Carriage) :
    (countTicks t s).ctx c = (s.ctx c).countDeadline := by
  rw [countTicks, hundred]
  exact Vector.getElem_map _ c.isLt

/-- A 100 ms tick at which holds alone run out (R113). -/
theorem takeTicks_of_holds {s : State} {t : Ticks} (hundred : t.hundred = true) (loose : s.looseEvents t false = []) :
    takeTicks t false s = ((List.finRange 16).filter fun e => decide (∃ h ∈ s.occ.pool[e], h.remaining = 1)).foldl
      (fun u e => endHold .expired .none e u) (countTicks t s) := by
  rw [takeTicks, orderedEvents_of_holds loose, holdEvents_eq, if_pos hundred, List.foldl_map]
  refine foldl_expireHold ((List.nodup_finRange 16).filter _) fun e mem => ?_
  obtain ⟨h, used, one⟩ := decide_eq_true_iff.1 (List.mem_filter.1 mem).2
  refine ⟨h, ?_, one⟩
  rw [countTicks_pool hundred, show s.occ.pool[e] = some h from used]
  exact congrArg some (HoldEntry.count_of_due one)

end Sys2Proof.Machine
end

section
/-! The window evaluation of a minute update (R117, R134, R135): what it leaves of the windows, of the WINDOW flag and its pulse,
and of the held moves, and that the timers that expire beside it touch none of these. -/

namespace Sys2Proof.Machine

/-! ### The part of the state the end of a hold reads -/

/-- The occupancy unit, the contexts and UQ stand: all that the end of a hold reads. -/
structure SameHolds (s t : State) : Prop where
  occ : t.occ = s.occ
  carriages : t.carriages = s.carriages
  uq : t.link.uq = s.link.uq

namespace SameHolds

theorem refl (s : State) : SameHolds s s := ⟨rfl, rfl, rfl⟩

theorem trans {s t u : State} (h : SameHolds s t) (k : SameHolds t u) : SameHolds s u :=
  ⟨k.occ.trans h.occ, k.carriages.trans h.carriages, k.uq.trans h.uq⟩

variable {s t : State} (same : SameHolds s t)
include same

theorem modifyCtx (c : Carriage) (f : Context → Context) : SameHolds (modifyCtx c f s) (modifyCtx c f t) := by
  refine ⟨same.occ, ?_, same.uq⟩
  show t.carriages.set c.val (f t.carriages[c]) = s.carriages.set c.val (f s.carriages[c])
  rw [same.carriages]

theorem withOcc (o : Occupancy) : SameHolds { s with occ := o } { t with occ := o } := ⟨rfl, same.carriages, same.uq⟩

theorem pushUq (f : UFrame) : SameHolds (pushUq f s) (pushUq f t) := by
  refine ⟨?_, ?_, ?_⟩
  · rw [Machine.pushUq, Machine.pushUq, pushUqMarked, pushUqMarked, evalPauses_occ, evalPauses_occ]
    exact same.occ
  · rw [Machine.pushUq, Machine.pushUq, pushUqMarked, pushUqMarked, evalPauses_carriages, evalPauses_carriages]
    exact same.carriages
  · rw [pushUq_uq, pushUq_uq, same.uq]

theorem uqOpen : t.uqOpen = s.uqOpen := by rw [State.uqOpen, State.freeUq, same.uq]; rfl

omit same in
theorem feedLoop (n : Nat) {s t : State} (same : SameHolds s t) : SameHolds (feedLoop n s) (feedLoop n t) := by
  induction n generalizing s t with
  | zero => exact same
  | succ n ih =>
    unfold Machine.feedLoop
    rw [same.occ, same.uqOpen]
    cases s.occ.backlog with
    | nil => exact same
    | cons r rest =>
      dsimp only
      split
      · exact ih (((same.withOcc { s.occ with backlog := rest }).pushUq r.frame).modifyCtx r.carriage _)
      · exact same

theorem appendRecord (r : BacklogRecord) : SameHolds (appendRecord r s) (appendRecord r t) := by
  rw [Machine.appendRecord, Machine.appendRecord, feed, feed, same.occ]
  exact ((same.withOcc { s.occ with backlog := s.occ.backlog ++ [r] }).modifyCtx r.carriage _).feedLoop _

theorem freeEntry (e : Fin 16) : SameHolds (freeEntry e s) (freeEntry e t) := by
  refine ⟨?_, ?_, ?_⟩
  · rw [Machine.freeEntry, Machine.freeEntry, evalHoldWarn_freed, evalHoldWarn_freed, same.occ]
  · rw [Machine.freeEntry, Machine.freeEntry, evalHoldWarn_carriages, evalHoldWarn_carriages]
    exact same.carriages
  · rw [Machine.freeEntry, Machine.freeEntry, evalHoldWarn_link, evalHoldWarn_link]
    exact same.uq

theorem setWaits (z : ZoneIndex) (l : List (Fin 16)) : SameHolds (setWaits z l s) (setWaits z l t) :=
  ⟨by rw [setWaits_occ, setWaits_occ, same.occ], same.carriages, same.uq⟩

theorem setRecheck (z : ZoneIndex) (b : Bool) : SameHolds (setRecheck z b s) (setRecheck z b t) :=
  ⟨by rw [setRecheck_occ, setRecheck_occ, same.occ], same.carriages, same.uq⟩

/-- The end of a hold reads nothing else. -/
theorem endHold (v : Verdict) (r : Reason) (e : Fin 16) : SameHolds (endHold v r e s) (endHold v r e t) := by
  unfold Machine.endHold
  rw [same.occ]
  cases s.occ.pool[e] with
  | none => exact same
  | some h =>
    have reported := (((same.setWaits h.zone (s.occ.waits[h.zone].erase e)).freeEntry e).modifyCtx h.carriage
      fun x => { x with state := .parked, holdRef := none }).appendRecord (h.report v r)
    dsimp only
    rw [reported.occ]
    split
    · exact reported.setRecheck _ _
    · exact reported

omit same in
theorem foldl_endHold (v : Verdict) (r : Reason) (l : List (Fin 16)) {s t : State} (same : SameHolds s t) :
    SameHolds (l.foldl (fun u e => Machine.endHold v r e u) s) (l.foldl (fun u e => Machine.endHold v r e u) t) := by
  induction l generalizing s t with
  | nil => exact same
  | cons e l ih => exact ih (same.endHold v r e)

omit same in
theorem foldl_withdrawZone (r : Reason) (l : List ZoneIndex) {s t : State} (same : SameHolds s t) :
    SameHolds (l.foldl (withdrawZone r) s) (l.foldl (withdrawZone r) t) := by
  induction l generalizing s t with
  | nil => exact same
  | cons z l ih =>
    refine ih ?_
    rw [withdrawZone, withdrawZone, same.occ]
    exact same.foldl_endHold _ _ _

end SameHolds

/-! ### The WINDOW flag and its pulse -/

/-- The WINDOW flag, its pulse and the alert enables stand. -/
structure SameAlert (s t : State) : Prop where
  flag : t.gov.flags.getLsbD 7 = s.gov.flags.getLsbD 7
  pulse : t.gov.pulses[(0 : Fin 5)] = s.gov.pulses[(0 : Fin 5)]
  enables : t.gov.alertEnables = s.gov.alertEnables

namespace SameAlert

theorem refl (s : State) : SameAlert s s := ⟨rfl, rfl, rfl⟩

theorem trans {s t u : State} (h : SameAlert s t) (k : SameAlert t u) : SameAlert s u :=
  ⟨k.flag.trans h.flag, k.pulse.trans h.pulse, k.enables.trans h.enables⟩

theorem of_gov {s t : State} (gov : t.gov = s.gov) : SameAlert s t := by
  refine ⟨?_, ?_, ?_⟩ <;> rw [gov]

theorem of_base {s s' t : State} (h : SameAlert s' t) (gov : s'.gov = s.gov) : SameAlert s t := (of_gov gov).trans h

theorem foldl {α : Type} {f : State → α → State} (one : ∀ s a, SameAlert s (f s a)) (l : List α) (s : State) :
    SameAlert s (l.foldl f s) := by
  induction l generalizing s with
  | nil => exact refl s
  | cons a l ih => exact (one s a).trans (ih _)

end SameAlert

theorem enables_raise (f : Flag) (s : State) : (raise f s).gov.alertEnables = s.gov.alertEnables := rfl

/-- Another flag's event leaves the WINDOW flag and its pulse. -/
theorem sameAlert_raise {f : Flag} (other : f ≠ .window) (s : State) : SameAlert s (raise f s) := by
  refine ⟨?_, ?_, rfl⟩
  · have flag := s.gov.flag_raise f .window
    rw [decide_eq_false (Ne.symm other), Bool.or_false] at flag
    exact flag
  · show (s.gov.raise f).pulses[(0 : Fin 5)] = _
    rw [Governor.pulses_raise]
    cases f with
    | window => exact absurd rfl other
    | cycle n =>
      dsimp only [Flag.pulse]
      split
      · exact Vector.getElem_set_ne _ _ (by simp)
      · rfl
    | _ => rfl

/-- The WINDOW event sets its flag, and starts its pulse under its enable (R153, R156). -/
theorem raise_window (s : State) : (raise .window s).gov.flags.getLsbD 7 = true ∧
    (raise .window s).gov.pulses[(0 : Fin 5)] = if s.gov.alertEnables.getLsbD 7 then 8 else s.gov.pulses[(0 : Fin 5)] := by
  constructor
  · have flag := s.gov.flag_raise .window .window
    rw [decide_eq_true rfl, Bool.or_true] at flag
    exact flag
  · show (if s.gov.alertEnables.getLsbD 7 then s.gov.pulses.set 0 8 else s.gov.pulses)[(0 : Fin 5)] = _
    split
    · simp
    · rfl

theorem sameAlert_evalHoldWarn (b : Bool) (s : State) : SameAlert s (evalHoldWarn b s) := by
  unfold evalHoldWarn
  split
  · exact (sameAlert_raise (f := .holdx) nofun _).of_base rfl
  · split
    · exact (sameAlert_raise (f := .holdx) nofun _).of_base rfl
    · exact .refl s

theorem sameAlert_endHold (v : Verdict) (r : Reason) (e : Fin 16) (s : State) : SameAlert s (endHold v r e s) := by
  cases used : s.occ.pool[e] with
  | none =>
    unfold endHold
    rw [used]
    exact .refl s
  | some h =>
    have freed : SameAlert s (freeEntry e (setWaits h.zone (s.occ.waits[h.zone].erase e) s)) :=
      (sameAlert_evalHoldWarn false _).of_base rfl
    have unreported : SameAlert s (endUnreported e h s) := freed.trans (.of_gov rfl)
    have reported := unreported.trans (.of_gov (calm_appendRecord (h.report v r) (endUnreported e h s)).sameGov)
    rw [endHold_of_used v r used]
    split
    · exact reported.trans (.of_gov rfl)
    · exact reported

theorem sameAlert_withdrawForWindow (w : Fin 16) (s : State) : SameAlert s (withdrawForWindow w s) :=
  .foldl (fun _ _ => .foldl (fun _ e => sameAlert_endHold _ _ e _) _ _) _ _

/-! ### Timers beside the windows -/

/-- What the timers that expire at a minute update leave for the windows. -/
structure BesideWindows (s t : State) : Prop extends SameHolds s t, SameAlert s t where
  windows : t.time.windows = s.time.windows
  timeInvalid : t.time.timeInvalid = s.time.timeInvalid
  calendar : t.time.calendar = s.time.calendar
  table : t.table = s.table

theorem BesideWindows.refl (s : State) : BesideWindows s s := ⟨.refl s, .refl s, rfl, rfl, rfl, rfl⟩

theorem BesideWindows.trans {s t u : State} (h : BesideWindows s t) (k : BesideWindows t u) : BesideWindows s u :=
  ⟨h.toSameHolds.trans k.toSameHolds, h.toSameAlert.trans k.toSameAlert, k.windows.trans h.windows,
    k.timeInvalid.trans h.timeInvalid, k.calendar.trans h.calendar, k.table.trans h.table⟩

theorem besideWindows_timerAction (n : Fin 4) (a : TimerAction) (s : State) : BesideWindows s (timerAction n a s) := by
  unfold timerAction
  split
  · exact ⟨⟨rfl, rfl, rfl⟩, sameAlert_raise (f := .cycle n) nofun s, rfl, rfl, rfl, rfl⟩
  · split
    · have traffic := traffic_pushDq s.heartbeat s
      refine ⟨⟨pushDq_occ _ _, evalPauses_carriages _, pushDq_uq _ _⟩, .of_gov ?_, ?_, ?_, ?_, traffic.table⟩
      · rw [pushDq, evalPauses_eq]
      all_goals rw [traffic.time]
    · exact .refl s

theorem besideWindows_expireTimer (n : Fin 4) (s : State) : BesideWindows s (expireTimer n s) := by
  unfold expireTimer
  dsimp only
  split
  · have reloaded : BesideWindows s (setTimer n { s.time.timers[n] with counter := s.time.timers[n].preset } s) :=
      ⟨⟨rfl, rfl, rfl⟩, .of_gov rfl, rfl, rfl, rfl, rfl⟩
    exact reloaded.trans (besideWindows_timerAction _ _ _)
  · exact .refl s

theorem besideWindows_foldl {l : List TickEvent} (timers : ∀ a ∈ l, ∃ n, a = .timer n) (s : State) :
    BesideWindows s (l.foldl TickEvent.take s) := by
  induction l generalizing s with
  | nil => exact .refl s
  | cons a l ih =>
    obtain ⟨n, rfl⟩ := timers a (.head _)
    exact (besideWindows_expireTimer n s).trans (ih (fun a mem => timers a (.tail _ mem)) _)

/-! ### The windows one by one -/

/-- A window that a minute update changes (R134). -/
def State.Toggles (s : State) (w : Fin 16) : Prop :=
  s.time.windows[w].inUse = true ∧ (s.time.windows[w].evaluate s.time.calendar).isOpen ≠ s.time.windows[w].isOpen

/-- A window that a minute update closes (R134). -/
def State.closes (s : State) (w : Fin 16) : Bool :=
  s.time.windows[w].inUse && s.time.windows[w].isOpen && !(s.time.windows[w].evaluate s.time.calendar).isOpen

/-- A window after a minute update (R134). -/
def State.evaluated (s : State) (w : Fin 16) : WindowEntry :=
  if s.time.windows[w].inUse = true then s.time.windows[w].evaluate s.time.calendar else s.time.windows[w]

theorem changeWindow_time (w : Fin 16) (e : WindowEntry) (s : State) : (changeWindow w e s).time = (setWindow w e s).time := by
  unfold changeWindow
  dsimp only
  split
  · rfl
  · split
    · rfl
    · exact (internals_withdrawForWindow w _).traffic.time

theorem evalWindow_window (s : State) (w v : Fin 16) : (evalWindow s w).time.windows[v] =
    if v = w then s.evaluated w else s.time.windows[v] := by
  unfold evalWindow State.evaluated
  dsimp only
  by_cases used : s.time.windows[w].inUse = true
  · rw [if_pos used, if_pos used, changeWindow_time]
    by_cases here : v = w
    · subst here
      rw [if_pos rfl]
      exact Vector.getElem_set_self _
    · rw [if_neg here]
      exact Vector.getElem_set_ne w.isLt v.isLt fun eq => here (Fin.ext eq.symm)
  · rw [if_neg used, if_neg used]
    split
    next here => rw [here]
    next => rfl

theorem evalWindow_calendar (s : State) (w : Fin 16) : (evalWindow s w).time.calendar = s.time.calendar := by
  unfold evalWindow
  dsimp only
  split
  · rw [changeWindow_time]; rfl
  · rfl

theorem evalWindow_table (s : State) (w : Fin 16) : (evalWindow s w).table = s.table := by
  unfold evalWindow
  dsimp only
  split
  · unfold changeWindow
    dsimp only
    split
    · rfl
    · split
      · rfl
      · exact (internals_withdrawForWindow w _).traffic.table
  · rfl

/-- The evaluation of one window leaves what the evaluation of another reads. -/
theorem evalWindow_others {s : State} {w v : Fin 16} (other : v ≠ w) :
    (evalWindow s w).evaluated v = s.evaluated v ∧ ((evalWindow s w).Toggles v ↔ s.Toggles v) ∧
      (evalWindow s w).closes v = s.closes v := by
  have window : (evalWindow s w).time.windows[v] = s.time.windows[v] := (evalWindow_window s w v).trans (if_neg other)
  have calendar := evalWindow_calendar s w
  refine ⟨?_, ?_, ?_⟩
  · rw [State.evaluated, window, calendar]; rfl
  · rw [State.Toggles, window, calendar]; exact Iff.rfl
  · rw [State.closes, window, calendar]; rfl

/-- A window that toggles raises WINDOW; one that does not changes no flag and no pulse (R135, R153). -/
theorem evalWindow_alert (s : State) (w : Fin 16) :
    (s.Toggles w → (evalWindow s w).gov.flags.getLsbD 7 = true ∧ (evalWindow s w).gov.pulses[(0 : Fin 5)] =
      (if s.gov.alertEnables.getLsbD 7 then 8 else s.gov.pulses[(0 : Fin 5)]) ∧
      (evalWindow s w).gov.alertEnables = s.gov.alertEnables) ∧
    (¬s.Toggles w → SameAlert s (evalWindow s w)) := by
  unfold evalWindow changeWindow
  dsimp only
  refine ⟨fun ⟨used, differs⟩ => ?_, fun same => ?_⟩
  · rw [if_pos used, if_neg differs]
    obtain ⟨flag, pulse⟩ := raise_window (setWindow w (s.time.windows[w].evaluate s.time.calendar) s)
    split
    · exact ⟨flag, pulse, rfl⟩
    · have alert := sameAlert_withdrawForWindow w (raise .window (setWindow w (s.time.windows[w].evaluate s.time.calendar) s))
      exact ⟨alert.flag.trans flag, alert.pulse.trans pulse, alert.enables⟩
  · split
    next used =>
      rw [if_pos (by_contra fun differs => same ⟨used, differs⟩)]
      exact .of_gov rfl
    next => exact .refl s

/-- A window that closes withdraws its waiters; any other leaves them (R117, R135). -/
theorem evalWindow_holds (s : State) (w : Fin 16) : SameHolds
    (if s.closes w = true then (s.zonesOfWindow w).foldl (withdrawZone .closed) s else s) (evalWindow s w) := by
  unfold evalWindow changeWindow State.closes
  dsimp only
  cases used : s.time.windows[w].inUse with
  | false => exact .refl s
  | true =>
    generalize s.time.windows[w].evaluate s.time.calendar = e
    have raised : SameHolds s (raise .window (setWindow w e s)) := ⟨rfl, rfl, rfl⟩
    rw [if_pos rfl, Bool.true_and]
    cases was : s.time.windows[w].isOpen with
    | false =>
      cases now : e.isOpen with
      | false => exact ⟨rfl, rfl, rfl⟩
      | true => exact raised
    | true =>
      cases now : e.isOpen with
      | true => exact ⟨rfl, rfl, rfl⟩
      | false => exact raised.foldl_withdrawZone .closed (s.zonesOfWindow w)

/-! ### All windows -/

section
variable {l : List (Fin 16)}

theorem foldl_evalWindow_window (once : l.Nodup) (s : State) (v : Fin 16) :
    (l.foldl evalWindow s).time.windows[v] = if v ∈ l then s.evaluated v else s.time.windows[v] := by
  induction l generalizing s with
  | nil => rfl
  | cons w l ih =>
    obtain ⟨fresh, once⟩ := List.nodup_cons.1 once
    rw [List.foldl_cons, ih once, evalWindow_window]
    by_cases here : v = w
    · subst here
      rw [if_neg fresh, if_pos rfl, if_pos (.head _)]
    · rw [if_neg here, (evalWindow_others here).1]
      exact if_congr (by rw [List.mem_cons, or_iff_right here]) rfl rfl

theorem foldl_evalWindow_alert (once : l.Nodup) (s : State) :
    ((∃ w ∈ l, s.Toggles w) → (l.foldl evalWindow s).gov.flags.getLsbD 7 = true ∧ (l.foldl evalWindow s).gov.pulses[(0 : Fin 5)] =
      if s.gov.alertEnables.getLsbD 7 then 8 else s.gov.pulses[(0 : Fin 5)]) ∧
    ((∀ w ∈ l, ¬s.Toggles w) → SameAlert s (l.foldl evalWindow s)) := by
  induction l generalizing s with
  | nil => exact ⟨fun ⟨_, mem, _⟩ => (nomatch mem), fun _ => .refl s⟩
  | cons w l ih =>
    obtain ⟨fresh, once⟩ := List.nodup_cons.1 once
    obtain ⟨some_later, none_later⟩ := ih once (evalWindow s w)
    obtain ⟨toggled, kept⟩ := evalWindow_alert s w
    have later : ∀ v ∈ l, ((evalWindow s w).Toggles v ↔ s.Toggles v) := fun v mem =>
      (evalWindow_others (ne_of_mem_of_not_mem mem fresh)).2.1
    rw [List.foldl_cons]
    refine ⟨fun some_toggles => ?_, fun none_toggles => ?_⟩
    · by_cases rest : ∃ v ∈ l, s.Toggles v
      · obtain ⟨v, mem, toggles⟩ := rest
        obtain ⟨flag, pulse⟩ := some_later ⟨v, mem, (later v mem).2 toggles⟩
        refine ⟨flag, pulse.trans ?_⟩
        by_cases here : s.Toggles w
        · obtain ⟨-, pulse, enables⟩ := toggled here
          rw [enables, pulse]
          split <;> rfl
        · rw [(kept here).enables, (kept here).pulse]
      · have here : s.Toggles w := by
          obtain ⟨v, mem, toggles⟩ := some_toggles
          rcases List.mem_cons.1 mem with rfl | mem
          · exact toggles
          · exact absurd ⟨v, mem, toggles⟩ rest
        obtain ⟨flag, pulse, -⟩ := toggled here
        have still := none_later fun v mem toggles => rest ⟨v, mem, (later v mem).1 toggles⟩
        exact ⟨still.flag.trans flag, still.pulse.trans pulse⟩
    · exact (kept (none_toggles w (.head _))).trans
        (none_later fun v mem toggles => none_toggles v (.tail _ mem) ((later v mem).1 toggles))

/-- The windows that close withdraw their waiters, one window after the other (R117). -/
theorem foldl_evalWindow_holds (once : l.Nodup) {s t : State} (same : SameHolds s t) {zones : Fin 16 → List ZoneIndex}
    (table : ∀ w, t.zonesOfWindow w = zones w) :
    SameHolds ((l.filter t.closes).foldl (fun u w => (zones w).foldl (withdrawZone .closed) u) s) (l.foldl evalWindow t) := by
  induction l generalizing s t with
  | nil => exact same
  | cons w l ih =>
    obtain ⟨fresh, once⟩ := List.nodup_cons.1 once
    have later : l.filter t.closes = l.filter (evalWindow t w).closes := List.filter_congr fun v mem =>
      (evalWindow_others (ne_of_mem_of_not_mem mem fresh)).2.2.symm
    have table' : ∀ v, (evalWindow t w).zonesOfWindow v = zones v := fun v => by
      rw [← table v, State.zonesOfWindow, evalWindow_table]
      rfl
    have evaluated := evalWindow_holds t w
    rw [List.foldl_cons, List.filter_cons, later]
    split
    next closes =>
      rw [if_pos closes, table] at evaluated
      exact ih once ((same.foldl_withdrawZone .closed (zones w)).trans evaluated) table'
    next stays =>
      rw [if_neg stays] at evaluated
      exact ih once (same.trans evaluated) table'

end

end Sys2Proof.Machine
end

section
/-! The 100 ms tick, the second update and the minute update: their statement (R68, R113, R125, R126, R128, R134, R135, R139). -/

namespace Sys2Proof.Machine

/-! ### The ticks as commands of their own -/

/-- The divider has returned to 0 (R125). -/
def dividerReset (s : State) : State := { s with time := { s.time with divider := 0 } }

/-- The sub-second count has returned to 0 (R126). -/
def subSecondReset (s : State) : State := { s with time := { s.time with subSecond := 0 } }

/-- The ticks a TICK_100MS brings (R125). -/
def ticks100 : Ticks := { Ticks.none with ten := true, hundred := true }

/-- The ticks a SECOND_UPDATE brings (R126). -/
def ticksSecond (minute : Bool) : Ticks := { Ticks.none with second := true, minute }

theorem ticks100_counts (source : TimerSource) : ticks100.counts source = decide (source = .ms10) := by cases source <;> rfl

theorem ticksSecond_counts (minute : Bool) (source : TimerSource) :
    (ticksSecond minute).counts source = true ↔ source = .s1 ∨ source = .min1 ∧ minute = true := by
  cases source <;> simp [Ticks.counts, ticksSecond, Ticks.none]

theorem takeTick100_eq (s : State) :
    takeTick100 s = takeTicks ticks100 false (dividerReset s) := rfl

theorem takeSecond_eq (s : State) :
    takeSecond s = takeTicks (ticksSecond s.time.calendar.rolls) false (subSecondReset s) := rfl

/-! ### The 100 ms tick -/

/-- The counts of a 100 ms tick, spelled out (R68, R113, R139). -/
theorem countTicks_100 (s : State) : countTicks ticks100 (dividerReset s) =
    { s with
      freeCount := s.freeCount + 1
      time := { s.time with
        divider := 0
        timers := s.time.timers.map fun k =>
          if k.enabled && decide (k.source = .ms10) && decide (1 < k.counter.toNat) then { k with counter := k.counter - 1 } else k }
      carriages := s.carriages.map Context.countDeadline
      occ := { s.occ with pool := s.occ.pool.map (Option.map HoldEntry.count) } } := by
  have count : (fun k : Timer => k.count ticks100) = fun k =>
      if k.enabled && decide (k.source = .ms10) && decide (1 < k.counter.toNat) then { k with counter := k.counter - 1 } else k :=
    funext fun k => by rw [Timer.count, ticks100_counts]
  rw [← count]
  rfl

theorem fires_100 (s : State) (n : Fin 4) : (dividerReset s).Fires ticks100 n ↔
    s.time.timers[n].enabled = true ∧ s.time.timers[n].source = .ms10 ∧ s.time.timers[n].counter = 1 := by
  rw [State.Fires, ticks100_counts, decide_eq_true_iff]
  exact Iff.rfl

theorem Context.countDeadline_eq (x : Context) : x.countDeadline = if x.state = .moving then
    { x with inFlight := x.inFlight.map fun r => { r with deadline := r.deadline.map fun n => if n ≤ 1 then n else n - 1 } }
    else x := by
  have down : (fun n => if 1 < n then n - 1 else n) = fun n : Nat => if n ≤ 1 then n else n - 1 := funext fun n => by
    split
    · rw [if_neg (by omega)]
    · rw [if_pos (by omega)]
  rw [Context.countDeadline, down]

theorem HoldEntry.count_eq (h : HoldEntry) :
    h.count = { h with remaining := if h.remaining ≤ 1 then h.remaining else h.remaining - 1 } := by
  rw [HoldEntry.count]
  split
  next more => rw [if_neg (Nat.not_le.2 more)]
  next few => rw [if_pos (Nat.not_lt.1 few)]

/-! ### The minute update -/

theorem matchesTime_iff (p : Pattern) (c : Calendar) : p.matchesTime c = true ↔
    (p.minute = 0xFF ∨ p.minute = c.minutes) ∧ (p.hour = 0xFF ∨ p.hour = c.hours) ∧ (p.month = 0xFF ∨ p.month = c.month) ∧
      (p.kind = 0x00 → p.value = 0xFF ∨ p.value = c.day) ∧ (p.kind ≠ 0x00 → p.value &&& c.weekday ≠ 0) := by
  simp only [Pattern.matchesTime, Bool.and_eq_true, Bool.or_eq_true, decide_eq_true_eq, and_assoc]
  refine and_congr Iff.rfl (and_congr Iff.rfl (and_congr Iff.rfl ?_))
  by_cases day : p.kind = 0x00
  · rw [if_pos day, Bool.or_eq_true, decide_eq_true_iff, decide_eq_true_iff]
    exact ⟨fun value => ⟨fun _ => value, fun other => absurd day other⟩, fun both => both.1 day⟩
  · rw [if_neg day, decide_eq_true_iff]
    exact ⟨fun value => ⟨fun eq => absurd eq day, fun _ => value⟩, fun both => both.2 day⟩

theorem nextMonth_seconds (c : Calendar) : (nextMonth c).seconds = c.seconds := by
  unfold nextMonth
  split <;> rfl

theorem nextDay_seconds (c : Calendar) : (nextDay c).seconds = c.seconds := by
  unfold nextDay
  dsimp only
  split
  · exact nextMonth_seconds _
  · rfl

theorem nextHour_seconds (c : Calendar) : (nextHour c).seconds = c.seconds := by
  unfold nextHour
  split
  · exact nextDay_seconds _
  · rfl

theorem nextMinute_seconds (c : Calendar) : (nextMinute c).seconds = c.seconds := by
  unfold nextMinute
  split
  · exact nextHour_seconds _
  · rfl

/-- The seconds after a minute update are 00 (R128). -/
theorem advance_seconds (c : Calendar) : (Calendar.advance { c with seconds := 0x59 }).seconds = 0x00 := by
  rw [Calendar.advance, if_pos (show bcdValue 0x59 = 59 from rfl), nextMinute_seconds]

/-- The state in which the effects of a minute update are taken. -/
def countMinute (s : State) : State :=
  countTicks (ticksSecond true)
    { s with time := { s.time with subSecond := 0, calendar := { s.time.calendar with seconds := 0x59 } } }

/-- A minute update is timers, the windows, and timers (R134, R139). -/
theorem takeTicks_minute {s : State} {t : Ticks} (base : t.base = false) (hundred : t.hundred = false) (minute : t.minute = true) :
    ∃ u, BesideWindows (countTicks t s) u ∧ BesideWindows (evalWindows u) (takeTicks t false s) := by
  have timers : ∀ {l : List TickEvent}, l.Perm (s.timerEvents t) → ∀ a ∈ l, ∃ n, a = TickEvent.timer n := fun perm a mem => by
    obtain ⟨n, -, eq⟩ := List.mem_map.1 (perm.mem_iff.1 mem)
    exact ⟨n, eq.symm⟩
  have perm : (s.orderedEvents t false).Perm (s.timerEvents t ++ s.windowEvents t) := by
    refine (orderedEvents_perm s t false).trans (List.Perm.of_eq ?_)
    rw [State.looseEvents, pulseEvents_coarse base, deadlineEvents_of_fine hundred, holdEvents_of_fine hundred]
    simp
  rcases windowEvents_cases s t with listed | ⟨unlisted, still⟩
  · rw [minute, if_pos rfl] at listed
    rw [listed] at perm
    obtain ⟨before, behind, order⟩ := List.append_of_mem (perm.mem_iff.2 (List.mem_append_right _ (.head _)))
    rw [order] at perm
    have split : (before ++ behind).Perm (s.timerEvents t) :=
      (List.perm_cons TickEvent.windows).1 ((List.perm_middle.symm.trans perm).trans (List.perm_append_singleton _ _))
    refine ⟨before.foldl TickEvent.take (countTicks t s),
      besideWindows_foldl (fun a mem => timers split a (List.mem_append_left _ mem)) _, ?_⟩
    rw [takeTicks, order, List.foldl_append]
    exact besideWindows_foldl (fun a mem => timers split a (List.mem_append_right _ mem)) _
  · rw [unlisted, List.append_nil] at perm
    refine ⟨countTicks t s, .refl _, ?_⟩
    rw [show evalWindows (countTicks t s) = countTicks t s from still]
    exact besideWindows_foldl (timers perm) _

theorem evaluated_congr {s t : State} (same : BesideWindows s t) (w : Fin 16) :
    t.evaluated w = s.evaluated w ∧ (t.Toggles w ↔ s.Toggles w) ∧ t.closes w = s.closes w := by
  refine ⟨?_, ?_, ?_⟩
  · rw [State.evaluated, same.windows, same.calendar]; rfl
  · rw [State.Toggles, same.windows, same.calendar]; exact Iff.rfl
  · rw [State.closes, same.windows, same.calendar]; rfl

/-- With the time valid a minute update evaluates every window (R134). -/
theorem evalWindows_of_valid {s : State} (valid : s.time.timeInvalid = false) :
    evalWindows s = (List.finRange 16).foldl evalWindow s := if_neg (by rw [valid]; nofun)

/-- A minute update with TIME_INVALID set leaves the windows (R134). -/
theorem takeMinute_invalid {s : State} (invalid : s.time.timeInvalid = true) : BesideWindows (countMinute s) (takeMinute s) := by
  obtain ⟨u, first, second⟩ := takeTicks_minute (t := ticksSecond true)
    (s := { s with time := { s.time with subSecond := 0, calendar := { s.time.calendar with seconds := 0x59 } } }) rfl rfl rfl
  have idle : evalWindows u = u := evalWindows_of_idle (.inl (first.timeInvalid.trans invalid))
  rw [idle] at second
  exact first.trans second

/-- A minute update with the time valid: the windows by their patterns, WINDOW where one of them changes, and the waiters of
those that close withdrawn (R117, R134, R135). -/
theorem takeMinute_valid {s : State} (valid : s.time.timeInvalid = false) :
    (∀ w : Fin 16, (takeMinute s).time.windows[w] = (countMinute s).evaluated w) ∧
      ((∃ w, (countMinute s).Toggles w) → (takeMinute s).gov.flags.getLsbD 7 = true ∧
        (takeMinute s).gov.pulses[(0 : Fin 5)] = if s.gov.alertEnables.getLsbD 7 then 8 else s.gov.pulses[(0 : Fin 5)]) ∧
      ((∀ w, ¬(countMinute s).Toggles w) → SameAlert s (takeMinute s)) ∧
      SameHolds (((List.finRange 16).filter (countMinute s).closes).foldl
        (fun u w => (s.zonesOfWindow w).foldl (withdrawZone .closed) u) s) (takeMinute s) := by
  obtain ⟨u, first, second⟩ := takeTicks_minute (t := ticksSecond true)
    (s := { s with time := { s.time with subSecond := 0, calendar := { s.time.calendar with seconds := 0x59 } } }) rfl rfl rfl
  change BesideWindows (countMinute s) u at first
  change BesideWindows (evalWindows u) (takeMinute s) at second
  have counted_holds : SameHolds s (countMinute s) := ⟨rfl, rfl, rfl⟩
  have counted_alert : SameAlert s (countMinute s) := .of_gov rfl
  have once := List.nodup_finRange 16
  rw [evalWindows_of_valid (first.timeInvalid.trans valid)] at second
  obtain ⟨toggled, kept⟩ := foldl_evalWindow_alert once u
  refine ⟨fun w => ?_, fun ⟨w, toggles⟩ => ?_, fun none => ?_, ?_⟩
  · rw [second.windows, foldl_evalWindow_window once, if_pos (List.mem_finRange w), (evaluated_congr first w).1]
  · obtain ⟨flag, pulse⟩ := toggled ⟨w, List.mem_finRange w, (evaluated_congr first w).2.1.2 toggles⟩
    rw [(counted_alert.trans first.toSameAlert).enables, (counted_alert.trans first.toSameAlert).pulse] at pulse
    exact ⟨second.flag.trans flag, second.pulse.trans pulse⟩
  · exact (counted_alert.trans first.toSameAlert).trans
      ((kept fun w _ toggles => none w ((evaluated_congr first w).2.1.1 toggles)).trans second.toSameAlert)
  · have zones : ∀ w, u.zonesOfWindow w = s.zonesOfWindow w := fun w => by
      rw [State.zonesOfWindow, first.table]; rfl
    have closes : u.closes = (countMinute s).closes := funext fun w => (evaluated_congr first w).2.2
    have withdrawn := foldl_evalWindow_holds once (counted_holds.trans first.toSameHolds) zones
    rw [closes] at withdrawn
    exact withdrawn.trans second.toSameHolds

/-- A window toggles exactly where the update leaves it in the other state. -/
theorem toggles_iff (s : State) (w : Fin 16) : (s.evaluated w).isOpen ≠ s.time.windows[w].isOpen ↔ s.Toggles w := by
  unfold State.evaluated State.Toggles
  split
  next used => exact ⟨fun differs => ⟨used, differs⟩, fun toggles => toggles.2⟩
  next unused => exact ⟨fun differs => absurd rfl differs, fun toggles => absurd toggles.1 unused⟩

theorem closes_eq (s : State) (w : Fin 16) : (s.time.windows[w].isOpen && !(s.evaluated w).isOpen) = s.closes w := by
  unfold State.evaluated State.closes
  cases s.time.windows[w].inUse with
  | true => rfl
  | false =>
    rw [if_neg nofun]
    cases s.time.windows[w].isOpen <;> rfl

end Sys2Proof.Machine
end

section
/-! The obligation on the 100 ms tick, the second update and the minute update. -/

namespace Sys2Proof.Machine

theorem looseEvents_100 (s : State) : (dividerReset s).looseEvents ticks100 false =
    (dividerReset s).timerEvents ticks100 ++ (dividerReset s).deadlineEvents ticks100 := looseEvents_coarse rfl rfl

/-- A 100 ms tick at which no count runs out is its counting (R125). -/
theorem takeTick100_quiet {s : State} (early : ∀ c, ¬s.Late c) (stays : ∀ e, ¬s.Ends e)
    (idle : ∀ n : Fin 4, ¬(s.time.timers[n].enabled = true ∧ s.time.timers[n].source = .ms10 ∧ s.time.timers[n].counter = 1)) :
    takeTick100 s = countTicks ticks100 (dividerReset s) := by
  rw [takeTick100_eq]
  refine takeTicks_of_none ((looseEvents_100 s).trans ?_) (holdEvents_eq_nil _ stays)
  rw [timerEvents_eq_nil fun n => mt (fires_100 s n).1 (idle n), deadlineEvents_eq_nil (s := dividerReset s) _ early]
  rfl

/-- The counting timers of a quiet 100 ms tick all stand above 1 (R139). -/
theorem timers_100 {s : State} (many : ∀ n : Fin 4, s.time.timers[n].enabled = true → s.time.timers[n].source = .ms10 →
    2 ≤ s.time.timers[n].counter.toNat) :
    (s.time.timers.map fun k =>
      if k.enabled && decide (k.source = .ms10) && decide (1 < k.counter.toNat) then { k with counter := k.counter - 1 } else k) =
    s.time.timers.map fun k => if k.enabled = true ∧ k.source = .ms10 then { k with counter := k.counter - 1 } else k := by
  ext1 n lt
  rw [Vector.getElem_map, Vector.getElem_map]
  refine if_congr ?_ rfl rfl
  rw [Bool.and_eq_true, Bool.and_eq_true, decide_eq_true_iff, decide_eq_true_iff]
  exact and_iff_left_of_imp fun counts => many ⟨n, lt⟩ counts.1 counts.2

/-- A second update that is no minute update (R126). -/
theorem rolls_eq_false {c : Calendar} (other : c.seconds ≠ 0x59) : c.rolls = false := (Bool.not_eq_true _).mp (mt (rolls_iff c).1 other)

theorem fires_second (s : State) (n : Fin 4) :
    (subSecondReset s).Fires (ticksSecond false) n ↔
      s.time.timers[n].enabled = true ∧ s.time.timers[n].source = .s1 ∧ s.time.timers[n].counter = 1 := by
  rw [State.Fires, ticksSecond_counts]
  simp [subSecondReset]

/-- The counts of a second update that is no minute update, spelled out (R126, R128, R139). -/
theorem countTicks_second (s : State) : countTicks (ticksSecond false) (subSecondReset s) =
    { s with
      freeCount := s.freeCount + 1
      time := { s.time with
        subSecond := 0
        calendar := s.time.calendar.advance
        timers := s.time.timers.map fun k =>
          if k.enabled && decide (k.source = .s1) && decide (1 < k.counter.toNat) then { k with counter := k.counter - 1 } else k } } := by
  have counts : ∀ source, (ticksSecond false).counts source = decide (source = .s1) := fun source => by cases source <;> rfl
  have count : (fun k : Timer => k.count (ticksSecond false)) = fun k =>
      if k.enabled && decide (k.source = .s1) && decide (1 < k.counter.toNat) then { k with counter := k.counter - 1 } else k :=
    funext fun k => by rw [Timer.count, counts]
  rw [← count]
  rfl

theorem looseEvents_second (s : State) : s.looseEvents (ticksSecond false) false = s.timerEvents (ticksSecond false) := by
  rw [looseEvents_coarse rfl rfl, deadlineEvents_of_fine rfl, List.append_nil]

theorem takeTick100_timer (s : State) {n : Fin 4} (fires : (dividerReset s).Fires ticks100 n)
    (others : ∀ m, m ≠ n → ¬(dividerReset s).Fires ticks100 m) (early : ∀ c, ¬s.Late c)
    (stays : ∀ e, ¬s.Ends e) :
    takeTick100 s = expireTimer n (countTicks ticks100 (dividerReset s)) := by
  rw [takeTick100_eq]
  refine takeTicks_of_single (a := .timer n) ((looseEvents_100 s).trans ?_) (holdEvents_eq_nil _ stays)
  rw [timerEvents_single fires others, deadlineEvents_eq_nil (s := dividerReset s) _ early]
  rfl

theorem takeTick100_deadline (s : State) {c : Carriage} (late : s.Late c) (others : ∀ k, k ≠ c → ¬s.Late k) (stays : ∀ e, ¬s.Ends e)
    (idle : ∀ n, ¬(dividerReset s).Fires ticks100 n) :
    takeTick100 s = expireDeadline c (countTicks ticks100 (dividerReset s)) := by
  rw [takeTick100_eq]
  refine takeTicks_of_single (a := .deadline c) ((looseEvents_100 s).trans ?_) (holdEvents_eq_nil _ stays)
  rw [timerEvents_eq_nil idle]
  exact deadlineEvents_single (s := dividerReset s) (t := ticks100) rfl late others

theorem takeTick100_holds (s : State) (early : ∀ c, ¬s.Late c)
    (idle : ∀ n, ¬(dividerReset s).Fires ticks100 n) :
    takeTick100 s = ((List.finRange 16).filter fun e => decide (∃ h ∈ s.occ.pool[e], h.remaining = 1)).foldl
      (fun u e => endHold .expired .none e u) (countTicks ticks100 (dividerReset s)) := by
  rw [takeTick100_eq]
  refine takeTicks_of_holds rfl ((looseEvents_100 s).trans ?_)
  rw [timerEvents_eq_nil idle, deadlineEvents_eq_nil (s := dividerReset s) _ early]
  rfl

/-- A window after a minute update whose patterns are evaluated (R133, R134). -/
theorem evaluated_cases {s : State} {w : Fin 16} (used : s.time.windows[w].inUse = true) :
    (s.time.windows[w].closePattern.matchesTime s.time.calendar = true →
      s.evaluated w = { s.time.windows[w] with isOpen := false }) ∧
    (¬s.time.windows[w].closePattern.matchesTime s.time.calendar = true →
      s.time.windows[w].openPattern.matchesTime s.time.calendar = true →
      s.evaluated w = { s.time.windows[w] with isOpen := true }) ∧
    (¬s.time.windows[w].closePattern.matchesTime s.time.calendar = true →
      ¬s.time.windows[w].openPattern.matchesTime s.time.calendar = true → s.evaluated w = s.time.windows[w]) := by
  rw [State.evaluated, if_pos used, WindowEntry.evaluate]
  refine ⟨fun closes => ?_, fun stays opens => ?_, fun stays shut => ?_⟩
  · rw [if_pos closes]
  · rw [if_neg stays, if_pos opens]
  · rw [if_neg stays, if_neg shut]

/-- Settles O45: the coarser ticks bring expiries alone; a minute update is the windows between expiries of timers that touch
none of what the windows read or write. -/
theorem coarserTicks : Obligations.CoarserTicks := by
  unfold Obligations.CoarserTicks
  refine ⟨⟨fun s early stays many => ?quiet, fun s => ?tick, fun s => ?second, fun s rolls => ?rolls, fun s other => ?plain⟩,
    fun s => ?minute⟩
  case quiet =>
    have none_late : ∀ c, ¬s.Late c := fun c ⟨moving, r, flight, sent, due⟩ => early c moving r flight sent due
    have none_ends : ∀ e, ¬s.Ends e := fun e ⟨h, used, due⟩ => stays e h used due
    have none_fires : ∀ n : Fin 4,
        ¬(s.time.timers[n].enabled = true ∧ s.time.timers[n].source = .ms10 ∧ s.time.timers[n].counter = 1) :=
      fun n ⟨enabled, source, one⟩ => absurd (many n enabled source) (by rw [one]; decide)
    have taken := takeTick100_quiet none_late none_ends none_fires
    refine ⟨_, congrArg Host.Outcome.next taken, fun c => ?_, fun e => ?_, rfl, rfl, rfl, rfl, rfl, rfl, rfl, ?_⟩
    · rw [countTicks_ctx rfl]
      exact Context.countDeadline_eq _
    · rw [countTicks_pool rfl]
      exact congrArg (Option.map · _) (funext HoldEntry.count_eq)
    · rw [countTicks_100, timers_100 many]
  case tick =>
    intro counted late ends fires
    have counted_eq : countTicks ticks100 (dividerReset s) = counted := countTicks_100 s
    rw [← counted_eq]
    have idle : (∀ n, ¬fires n) → ∀ n, ¬(dividerReset s).Fires ticks100 n :=
      fun none n => mt (fires_100 s n).1 (none n)
    exact ⟨fun early none => congrArg Host.Outcome.next (takeTick100_holds s early (idle none)),
      fun c due others stays none => congrArg Host.Outcome.next (takeTick100_deadline s due others stays (idle none)),
      fun n due others early stays => congrArg Host.Outcome.next (takeTick100_timer s ((fires_100 s n).2 due)
        (fun m other => mt (fires_100 s m).1 (others m other)) early stays)⟩
  case second =>
    have base := sameBase_takeTicks (ticksSecond s.time.calendar.rolls) false (subSecondReset s)
    refine ⟨_, rfl, base.subSecond, base.divider, base.calendar, fun n => ?_⟩
    intro k due
    refine timer_cases (t := ticksSecond s.time.calendar.rolls) (and_congr Iff.rfl ?_)
      (takeTicks_timer _ false (subSecondReset s) n)
    rw [ticksSecond_counts, rolls_iff]
  case rolls =>
    refine congrArg Host.Outcome.next ?_
    have calendar : { s.time.calendar with seconds := 0x59 } = s.time.calendar := by rw [← rolls]
    rw [takeSecond, takeMinute, (rolls_iff _).2 rolls, calendar]
  case plain =>
    intro counted fires
    have counted_eq : countTicks (ticksSecond false) (subSecondReset s) = counted := countTicks_second s
    have taken : takeSecond s = takeTicks (ticksSecond false) false (subSecondReset s) := by
      rw [takeSecond_eq, rolls_eq_false other]
    rw [← counted_eq]
    refine ⟨fun none => congrArg Host.Outcome.next (taken.trans ?_), fun n due others => congrArg Host.Outcome.next (taken.trans ?_)⟩
    · refine takeTicks_of_none ((looseEvents_second _).trans ?_) (holdEvents_of_fine rfl)
      exact timerEvents_eq_nil fun n => mt (fires_second s n).1 (none n)
    · refine takeTicks_of_single (a := .timer n) ((looseEvents_second _).trans ?_) (holdEvents_of_fine rfl)
      exact timerEvents_single ((fires_second s n).2 due) fun m other => mt (fires_second s m).1 (others m other)
  case minute =>
    have base : SameBase (countMinute s) (takeMinute s) := sameBase_takeTicks ..
    refine ⟨takeMinute s, rfl, base.subSecond, ?_, base.calendar, fun n => ?_, fun invalid => (takeMinute_invalid invalid).windows,
      fun valid w => ?_, ⟨fun ⟨w, differs⟩ => ?_, fun same => ?_⟩, ?_⟩
    · rw [base.calendar]
      exact advance_seconds _
    · intro k due
      refine timer_cases (t := ticksSecond true) (and_congr Iff.rfl ?_) (takeTicks_timer _ false
        { s with time := { s.time with subSecond := 0, calendar := { s.time.calendar with seconds := 0x59 } } } n)
      rw [ticksSecond_counts, and_iff_left rfl]
    · intro e now matching
      have matching_iff : ∀ p : Pattern, p.matchesTime (countMinute s).time.calendar = true ↔ matching p := fun p => by
        rw [← base.calendar]
        exact matchesTime_iff p now
      rw [(takeMinute_valid valid).1 w]
      refine ⟨fun unused => if_neg ((Bool.not_eq_true _).mpr unused), fun used => ?_⟩
      have cases := evaluated_cases (s := countMinute s) (w := w) used
      simp only [matching_iff] at cases
      exact cases
    · cases valid : s.time.timeInvalid with
      | true => exact absurd (congrArg (fun ws : Vector WindowEntry 16 => ws[w].isOpen) (takeMinute_invalid valid).windows) differs
      | false =>
        obtain ⟨windows, toggled, -, -⟩ := takeMinute_valid valid
        rw [windows] at differs
        exact toggled ⟨w, (toggles_iff (countMinute s) w).1 differs⟩
    · cases valid : s.time.timeInvalid with
      | true => exact ⟨(takeMinute_invalid valid).flag, (takeMinute_invalid valid).pulse⟩
      | false =>
        obtain ⟨windows, -, kept, -⟩ := takeMinute_valid valid
        have alert := kept fun w toggles => same ⟨w, by
          rw [windows]
          exact (toggles_iff (countMinute s) w).2 toggles⟩
        exact ⟨alert.flag, alert.pulse⟩
    · intro closing zonesOf withdrawn
      have withdrawn_eq : closing.foldl (fun u w => (s.zonesOfWindow w).foldl (withdrawZone .closed) u) s = withdrawn := rfl
      clear_value withdrawn
      have same : SameHolds withdrawn (takeMinute s) := by
        rw [← withdrawn_eq]
        cases valid : s.time.timeInvalid with
        | true =>
          have beside := takeMinute_invalid valid
          have windows : (takeMinute s).time.windows = s.time.windows := beside.windows
          have none : closing = [] := filter_finRange_none fun w => by
            rw [windows]
            cases s.time.windows[w].isOpen <;> nofun
          rw [none]
          exact SameHolds.trans (t := countMinute s) ⟨rfl, rfl, rfl⟩ beside.toSameHolds
        | false =>
          obtain ⟨windows, -, -, holds⟩ := takeMinute_valid valid
          have closing_eq : closing = (List.finRange 16).filter (countMinute s).closes := List.filter_congr fun w _ => by
            rw [windows]
            exact closes_eq (countMinute s) w
          rw [closing_eq]
          exact holds
      exact ⟨same.occ, same.carriages, same.uq⟩

end Sys2Proof.Machine
end
